-- ==== Sys2Proof/Word.lean ====
section
/-! DEFINITION. The data of the AES-128 CORE block (00_scope.md R10, R12): bytes, 4-byte words, 16-byte blocks
and 4 by 4 byte matrices. A word is four bytes and never a 32-bit number (R12, D29). -/

namespace Sys2Proof

/-- An 8-bit unsigned value; bit 0 is the least significant bit and the coefficient of x^0 (R10). -/
abbrev Byte := BitVec 8

/-- A word `[b0, b1, b2, b3]`, `b0` at the lowest offset (R12). -/
abbrev Word := Vector Byte 4

/-- A 16-byte vector `B[0..15]`: a key, a block, IBUF or OUT. -/
abbrev Block := Vector Byte 16

/-- A 4 by 4 byte matrix `M[r][c]`, row `r` first (R12). -/
abbrev Matrix := Vector Word 4

/-- The 16 rows of a substitution table: `t[hi][lo]` is the entry of the byte 16·hi + lo (R95). -/
abbrev SboxTable := Vector Block 16

/-- The 44 schedule words of the RoundKeyTable (R37). -/
abbrev Schedule := Vector Word 44

end Sys2Proof
end

