-- ==== Sys2Proof/Config.lean ====
section
/-! DEFINITION. What the spec leaves free: `draw byte` (00_scope.md R13), an unconstrained byte. -/

namespace Sys2Proof

/-- The value of the n-th free byte. It has no body: no proof can see what it is, so a claim holds whatever it is.
It is used for what 93_implementation_defined.md lists as "any value": RKWIN while no key is valid (U4, R35), and
IBUF, RK and ST after reset (U5, R240). DESIGN CHOICE, log 3; safe but for the correlation log 3 names. -/
opaque Config.freeByte : Nat → Byte

end Sys2Proof
end

