-- ==== Sys2Proof/Syntax.lean ====
section
/-! DEFINITION. The instructions: one constructor for every row of spec/opcode_table.json, and the controller states
that the controller's rows are named by. -/

namespace Sys2Proof

/-- The controller states `fsm` (10_state.md R40). -/
inductive Fsm where
  | idle
  | keyexp
  | loaded
  | whitened
  | round
  | final
  | error
deriving DecidableEq, Repr

/-- One bus transaction of HOST, or one dispatch row of CTRL (30_encoding.md R70).

`d` is the DATA byte of a transaction that ignores it (R71): it is kept so that no bit of a word is dropped.
`v` is the data byte written, `c` a command byte, `a` an address, `k` a byte index. -/
inductive Instr where
  -- writes to CMD (R74, R75)
  | cmdNop
  | cmdLoadKey
  | cmdEncrypt
  | cmdDecrypt
  | cmdSoftReset
  | cmdIllegal (c : Byte)
  -- register reads (R76, R181)
  | rdCmd (d : Byte)
  | rdStatus (d : Byte)
  | rdErrcode (d : Byte)
  | rdDin (d : Byte)
  | rdInCnt (d : Byte)
  | rdFsm (d : Byte)
  | rdRoundcnt (d : Byte)
  | rdKsidx (d : Byte)
  | rdRkidx (d : Byte)
  | rdGfa (d : Byte)
  | rdGfb (d : Byte)
  | rdGfp (d : Byte)
  | rdSbin (d : Byte)
  | rdSbout (d : Byte)
  | rdOut (k : BitVec 4) (d : Byte)
  | rdRkwin (k : BitVec 4) (d : Byte)
  | rdReserved (a d : Byte)
  -- register writes (R76, R182, R183, R184, R189)
  | wrDin (v : Byte)
  | wrRkidx (v : Byte)
  | wrGfa (v : Byte)
  | wrGfb (v : Byte)
  | wrSbin (v : Byte)
  | wrIgnored (a d : Byte)
  -- controller dispatch (R77)
  | ctrlKeyexp (rc : BitVec 4)
  | ctrlWhiten
  | ctrlFullroundFirst
  | ctrlFullround (r : BitVec 4)
  | ctrlFinalround
  | ctrlSerialize
  | ctrlNoneIdle (rc : BitVec 4)
  | ctrlNoneError (rc : BitVec 4)
  | ctrlUnreachable (f : Fsm) (r : BitVec 4)
deriving DecidableEq, Repr

end Sys2Proof
end

