-- ==== Sys2Proof/Machine/State.lean ====
section
/-! DEFINITION. The state of the block (10_state.md), plain data, with what the model holds beside it: the turns still
to come, the bytes HOST has read and the count of free bytes drawn. The value after reset, and the reasons to stop. -/

namespace Sys2Proof.Machine

/-- The error codes ERRCODE can hold; "No other code is ever stored" (60_exceptions.md R211). -/
inductive ErrCode where
  | none
  | keyLength
  | blockLength
  | noKey
  | cmdWhileBusy
  | illegalCmd
  | unsupported
deriving DecidableEq, Repr

/-- What stops an agent. The block's own errors are no faults: error entry (R220) is a next state. A fault is recorded in
`State.ctrlFault` and stops CTRL alone; no step of the machine ends in one, since HOST goes on (U7, R180). -/
inductive Fault where
  /-- UNREACHABLE_DISPATCH (R160, R219, U7): recorded by a controller step met in a state that 30_encoding.md R77 does
  not dispatch it from, the pairs of R160 among them, and by a key-expansion step with KSIDX outside 4..43 (log 6).
  No run from reset meets one. Safe: it errs toward unprovable. -/
  | unreachableDispatch
deriving DecidableEq, Repr

/-- One turn of the interleaving (R14, R60, R180): HOST performs the bus transaction of a 17-bit word, the reset input
is asserted (R190), or CTRL takes a controller step. DESIGN CHOICE, log 1. -/
inductive Turn where
  | bus (w : BitVec 17)
  | reset
  | ctrl
deriving DecidableEq, Repr

/-- The block, and beside it the model's own `ctrlFault`, `turns`, `reads` and `draws`. -/
structure State where
  /-- the controller state (R40) -/
  fsm : Fsm
  /-- OUT holds the ciphertext of the latest ENCRYPT (R41) -/
  done : Bool
  /-- RK holds a complete schedule (R41) -/
  keyValid : Bool
  /-- the first error since reset (R25) -/
  errcode : ErrCode
  /-- the DIN bytes since the last clear, saturating at 255 (R27) -/
  inCnt : BitVec 8
  /-- RoundCounter: key mixings so far (R39) -/
  rc : BitVec 4
  /-- the next schedule word to compute (R30) -/
  ksidx : BitVec 6
  /-- the round key RKWIN shows (R31) -/
  rkidx : BitVec 4
  /-- multiplier operand a (R32) -/
  gfa : Byte
  /-- multiplier operand b (R32) -/
  gfb : Byte
  /-- SBox port input (R33) -/
  sbin : Byte
  /-- the latest ciphertext (R34) -/
  out : Block
  /-- the input buffer (R36) -/
  ibuf : Block
  /-- the RoundKeyTable (R37) -/
  rk : Schedule
  /-- the State of the block in the pipeline (R38) -/
  st : Matrix
  /-- the SBox ROM: the parameter SBOX_TABLE, which no step writes (R9, R94) -/
  sboxRom : SboxTable
  /-- the model's own: the fault CTRL has recorded, after which it is stuck (R160, U7, log 11) -/
  ctrlFault : Option Fault
  /-- the model's own: the turns still to come, the next one first (log 1) -/
  turns : List Turn
  /-- the model's own: the bytes HOST's reads have returned, the latest first (log 2) -/
  reads : List Byte
  /-- the model's own: how many free bytes have been drawn (log 3) -/
  draws : Nat
deriving DecidableEq, Repr

/-- The machine right after reset (R43, R242). IBUF, RK and ST are unspecified there: each of their 208 bytes is a
free value (log 3). The SBox ROM holds the default table (R9, log 5). No turn is listed: HOST has asked for nothing
yet (log 8). -/
def State.reset : State where
  fsm := .idle
  done := false
  keyValid := false
  errcode := .none
  inCnt := 0x00#8
  rc := 0#4
  ksidx := 0#6
  rkidx := 0#4
  gfa := 0x00#8
  gfb := 0x00#8
  sbin := 0x00#8
  out := Vector.ofFn fun _ => 0x00#8
  ibuf := Vector.ofFn fun k => Config.freeByte k
  rk := Vector.ofFn fun i => Vector.ofFn fun j => Config.freeByte (16 + 4 * i + j)
  st := Vector.ofFn fun r => Vector.ofFn fun c => Config.freeByte (192 + 4 * r + c)
  sboxRom := defaultSboxTable
  ctrlFault := none
  turns := []
  reads := []
  draws := 208

/-- Why an instruction has no meaning. -/
inductive Refusal where
  /-- An instruction of the opcode table that has no meaning yet; raised by `exec`'s arms only. Safe. -/
  | notModelled (mnemonic : String)
deriving DecidableEq, Repr

end Sys2Proof.Machine
end

