-- ==== Sys2Proof/Machine/Flags.lean ====
section
/-! DEFINITION. The STATUS flags (10_state.md R24): BUSY and ERR are computed from `fsm`, DONE and KEY_VALID stored. -/

namespace Sys2Proof.Machine

/-- BUSY is 1 exactly when `fsm` is neither IDLE nor ERROR (R24). -/
def busy : Fsm → Bool
  | .idle => false
  | .error => false
  | .keyexp => true
  | .loaded => true
  | .whitened => true
  | .round => true
  | .final => true

/-- ERR is 1 exactly when `fsm` is ERROR (R24). -/
def err (f : Fsm) : Bool := f == .error

/-- The STATUS byte: bit 3 ERR, bit 2 KEY_VALID, bit 1 DONE, bit 0 BUSY, bits 7:4 read 0 (R24). -/
def statusByte (s : State) : Byte :=
  0#4 ++ BitVec.ofBool (err s.fsm) ++ BitVec.ofBool s.keyValid ++ BitVec.ofBool s.done ++ BitVec.ofBool (busy s.fsm)

end Sys2Proof.Machine
end

