-- ==== Sys2Proof/WellFormed.lean ====
section
/-! DEFINITION. Which instruction terms stand for a row of the opcode table: the operand bounds of
spec/opcode_table.json's rows CMD_ILLEGAL, RD_RESERVED, WR_IGNORED, CTRL_FULLROUND and CTRL_UNREACHABLE. -/

namespace Sys2Proof

/-- The five command bytes that are not reserved (R74). -/
def isCommandByte (c : Byte) : Bool :=
  c == 0x00#8 || c == 0x01#8 || c == 0x02#8 || c == 0x03#8 || c == 0x0F#8

/-- The reserved addresses 0x0E, 0x0F and 0x30..0xFF (R55). -/
def isReservedAddr (a : Byte) : Bool :=
  a == 0x0E#8 || a == 0x0F#8 || 0x30#8 ≤ a

/-- The addresses whose writes are ignored: the read-only and the reserved ones (R189). -/
def isWriteIgnoredAddr (a : Byte) : Bool :=
  a == 0x01#8 || a == 0x02#8 || a == 0x04#8 || a == 0x05#8 || a == 0x06#8 || a == 0x07#8 ||
  a == 0x0B#8 || a == 0x0D#8 || a == 0x0E#8 || a == 0x0F#8 || 0x10#8 ≤ a

/-- The dispatch pairs no run reaches: (LOADED, RC ≠ 0), (WHITENED, RC ≠ 1), (ROUND, RC ∉ 2..10) and
(FINAL, RC ≠ 11) (R160). -/
def isUnreachablePair (f : Fsm) (rc : BitVec 4) : Bool :=
  match f with
  | .loaded => rc != 0#4
  | .whitened => rc != 1#4
  | .round => !(2#4 ≤ rc && rc ≤ 10#4)
  | .final => rc != 11#4
  | .idle => false
  | .keyexp => false
  | .error => false

/-- An instruction is well formed when its operands are ones its row admits. -/
def Instr.wf : Instr → Bool
  | .cmdIllegal c => !isCommandByte c
  | .rdReserved a _ => isReservedAddr a
  | .wrIgnored a _ => isWriteIgnoredAddr a
  | .ctrlFullround r => 2#4 ≤ r && r ≤ 9#4
  | .ctrlUnreachable f r => isUnreachablePair f r
  | .cmdNop | .cmdLoadKey | .cmdEncrypt | .cmdDecrypt | .cmdSoftReset => true
  | .rdCmd _ | .rdStatus _ | .rdErrcode _ | .rdDin _ | .rdInCnt _ | .rdFsm _ | .rdRoundcnt _ => true
  | .rdKsidx _ | .rdRkidx _ | .rdGfa _ | .rdGfb _ | .rdGfp _ | .rdSbin _ | .rdSbout _ => true
  | .rdOut _ _ | .rdRkwin _ _ => true
  | .wrDin _ | .wrRkidx _ | .wrGfa _ | .wrGfb _ | .wrSbin _ => true
  | .ctrlKeyexp _ | .ctrlWhiten | .ctrlFullroundFirst | .ctrlFinalround | .ctrlSerialize => true
  | .ctrlNoneIdle _ | .ctrlNoneError _ => true

end Sys2Proof
end

