-- ==== Sys2Proof/Decode.lean ====
section
/-! DEFINITION. The decoder and the encoder (30_encoding.md). A transaction word has 17 bits: RW, ADDR, DATA (R71).
A dispatch key has 12: the fsm code and RC (R77). In bytes, the first byte holds bits 7..0, so a word is three bytes
and a key two (log 7, DESIGN CHOICE: the spec gives no byte layout and no rule depends on one). -/

namespace Sys2Proof

/-! ### The two encoded forms -/

/-- The code of a controller state, as read at address 0x05 (R78). -/
def Fsm.code : Fsm → Byte
  | .idle => 0x00#8
  | .keyexp => 0x01#8
  | .loaded => 0x02#8
  | .whitened => 0x03#8
  | .round => 0x04#8
  | .final => 0x05#8
  | .error => 0x0F#8

/-- The controller state of a code; "No other code is ever read" (R78). -/
def fsmOfCode (c : Byte) : Option Fsm :=
  if c = 0x00#8 then some .idle
  else if c = 0x01#8 then some .keyexp
  else if c = 0x02#8 then some .loaded
  else if c = 0x03#8 then some .whitened
  else if c = 0x04#8 then some .round
  else if c = 0x05#8 then some .final
  else if c = 0x0F#8 then some .error
  else none

/-- A transaction word from its fields: bit 16 RW, bits 15:8 ADDR, bits 7:0 DATA (R71). -/
def transactionWord (write : Bool) (addr data : Byte) : BitVec 17 :=
  (BitVec.ofBool write ++ addr) ++ data

/-- A dispatch key from its fields: bits 11:4 the fsm code, bits 3:0 RC (R77). -/
def dispatchKey (code : Byte) (rc : BitVec 4) : BitVec 12 := code ++ rc

/-- The three bytes of a transaction word, bits 7..0 first (log 7). -/
def transactionBytes (w : BitVec 17) : List Byte :=
  [w.extractLsb' 0 8, w.extractLsb' 8 8, (w.extractLsb' 16 1).zeroExtend 8]

/-- The two bytes of a dispatch key, bits 7..0 first (log 7). -/
def keyBytes (k : BitVec 12) : List Byte :=
  [k.extractLsb' 0 8, (k.extractLsb' 8 4).zeroExtend 8]

/-! ### The decoder -/

/-- The command a write of `c` to CMD issues (R74); every other byte is illegal (R75). -/
def decodeCommand (c : Byte) : Instr :=
  if c = 0x00#8 then .cmdNop
  else if c = 0x01#8 then .cmdLoadKey
  else if c = 0x02#8 then .cmdEncrypt
  else if c = 0x03#8 then .cmdDecrypt
  else if c = 0x0F#8 then .cmdSoftReset
  else .cmdIllegal c

/-- The read of address `a` with DATA `d` (R76, the column "read returns"). -/
def decodeRead (a d : Byte) : Instr :=
  if a = 0x00#8 then .rdCmd d
  else if a = 0x01#8 then .rdStatus d
  else if a = 0x02#8 then .rdErrcode d
  else if a = 0x03#8 then .rdDin d
  else if a = 0x04#8 then .rdInCnt d
  else if a = 0x05#8 then .rdFsm d
  else if a = 0x06#8 then .rdRoundcnt d
  else if a = 0x07#8 then .rdKsidx d
  else if a = 0x08#8 then .rdRkidx d
  else if a = 0x09#8 then .rdGfa d
  else if a = 0x0A#8 then .rdGfb d
  else if a = 0x0B#8 then .rdGfp d
  else if a = 0x0C#8 then .rdSbin d
  else if a = 0x0D#8 then .rdSbout d
  else if a.extractLsb' 4 4 = 1#4 then .rdOut (a.extractLsb' 0 4) d
  else if a.extractLsb' 4 4 = 2#4 then .rdRkwin (a.extractLsb' 0 4) d
  else .rdReserved a d

/-- The write of `v` to address `a` (R76, the column "write effect"; R189 for the ignored ones). -/
def decodeWrite (a v : Byte) : Instr :=
  if a = 0x00#8 then decodeCommand v
  else if a = 0x03#8 then .wrDin v
  else if a = 0x08#8 then .wrRkidx v
  else if a = 0x09#8 then .wrGfa v
  else if a = 0x0A#8 then .wrGfb v
  else if a = 0x0C#8 then .wrSbin v
  else .wrIgnored a v

/-- The transaction a 17-bit word stands for; every word is one (R71, R80, R81). -/
def decodeTransaction (w : BitVec 17) : Instr :=
  let addr := w.extractLsb' 8 8
  let data := w.extractLsb' 0 8
  if w.extractLsb' 16 1 = 1#1 then decodeWrite addr data else decodeRead addr data

/-- The controller step that (fsm, RC) selects; every pair has a row (R77, R80). -/
def decodeDispatch (f : Fsm) (rc : BitVec 4) : Instr :=
  match f with
  | .idle => .ctrlNoneIdle rc
  | .error => .ctrlNoneError rc
  | .keyexp => .ctrlKeyexp rc
  | .loaded => if rc = 0#4 then .ctrlWhiten else .ctrlUnreachable .loaded rc
  | .whitened => if rc = 1#4 then .ctrlFullroundFirst else .ctrlUnreachable .whitened rc
  | .round =>
    if 2#4 ≤ rc ∧ rc ≤ 9#4 then .ctrlFullround rc
    else if rc = 10#4 then .ctrlFinalround
    else .ctrlUnreachable .round rc
  | .final => if rc = 11#4 then .ctrlSerialize else .ctrlUnreachable .final rc

/-- Why a string of bytes is no encoding. -/
inductive DecodeReject where
  /-- neither three bytes (a transaction word) nor two (a dispatch key) -/
  | wrongLength
  /-- a transaction word has no bit above bit 16 (R71) -/
  | transactionBitsAbove16
  /-- a dispatch key has no bit above bit 11 (R77) -/
  | keyBitsAbove11
  /-- bits 11:4 of the key are the code of no controller state (R78) -/
  | unknownFsmCode
deriving DecidableEq, Repr

/-- Decoding of bytes: total, rejecting by name what is no transaction word and no dispatch key. -/
def decode : List Byte → Except DecodeReject Instr
  | [b0, b1, b2] =>
    if 0x01#8 < b2 then .error .transactionBitsAbove16
    else .ok (decodeTransaction (((b2.extractLsb' 0 1) ++ b1) ++ b0))
  | [b0, b1] =>
    if 0x0F#8 < b1 then .error .keyBitsAbove11
    else
      match fsmOfCode (b1.extractLsb' 0 4 ++ b0.extractLsb' 4 4) with
      | some f => .ok (decodeDispatch f (b0.extractLsb' 0 4))
      | none => .error .unknownFsmCode
  | _ => .error .wrongLength

/-- The bytes of an instruction whose bits are `w`, numbered as spec/opcode_table.json numbers them: a row of up to
16 bits is a dispatch key in two bytes, a longer one a transaction word in three. -/
def tableBytes (nbits w : Nat) : List Byte :=
  if nbits ≤ 16 then [BitVec.ofNat 8 w, BitVec.ofNat 8 (w / 256)]
  else [BitVec.ofNat 8 w, BitVec.ofNat 8 (w / 256), BitVec.ofNat 8 (w / 65536)]

/-- The instruction the decoder reads from the bits `w` of a table row of `nbits` bits. -/
def decodeTableWord (nbits w : Nat) : Option Instr :=
  if w < (if nbits ≤ 16 then 65536 else 16777216) then (decode (tableBytes nbits w)).toOption else none

/-! ### The encoder -/

/-- A read word: RW = 0 (R71). -/
def readWord (addr data : Byte) : List Byte := transactionBytes (transactionWord false addr data)

/-- A write word: RW = 1 (R71). -/
def writeWord (addr data : Byte) : List Byte := transactionBytes (transactionWord true addr data)

/-- A dispatch key of a controller state and RC (R77). -/
def keyWord (f : Fsm) (rc : BitVec 4) : List Byte := keyBytes (dispatchKey f.code rc)

/-- The bytes of a well-formed instruction, from the encodings of R71, R74, R76 and R77. -/
def encode : Instr → List Byte
  | .cmdNop => writeWord 0x00#8 0x00#8
  | .cmdLoadKey => writeWord 0x00#8 0x01#8
  | .cmdEncrypt => writeWord 0x00#8 0x02#8
  | .cmdDecrypt => writeWord 0x00#8 0x03#8
  | .cmdSoftReset => writeWord 0x00#8 0x0F#8
  | .cmdIllegal c => writeWord 0x00#8 c
  | .rdCmd d => readWord 0x00#8 d
  | .rdStatus d => readWord 0x01#8 d
  | .rdErrcode d => readWord 0x02#8 d
  | .rdDin d => readWord 0x03#8 d
  | .rdInCnt d => readWord 0x04#8 d
  | .rdFsm d => readWord 0x05#8 d
  | .rdRoundcnt d => readWord 0x06#8 d
  | .rdKsidx d => readWord 0x07#8 d
  | .rdRkidx d => readWord 0x08#8 d
  | .rdGfa d => readWord 0x09#8 d
  | .rdGfb d => readWord 0x0A#8 d
  | .rdGfp d => readWord 0x0B#8 d
  | .rdSbin d => readWord 0x0C#8 d
  | .rdSbout d => readWord 0x0D#8 d
  | .rdOut k d => readWord (1#4 ++ k) d
  | .rdRkwin k d => readWord (2#4 ++ k) d
  | .rdReserved a d => readWord a d
  | .wrDin v => writeWord 0x03#8 v
  | .wrRkidx v => writeWord 0x08#8 v
  | .wrGfa v => writeWord 0x09#8 v
  | .wrGfb v => writeWord 0x0A#8 v
  | .wrSbin v => writeWord 0x0C#8 v
  | .wrIgnored a d => writeWord a d
  | .ctrlKeyexp rc => keyWord .keyexp rc
  | .ctrlWhiten => keyWord .loaded 0#4
  | .ctrlFullroundFirst => keyWord .whitened 1#4
  | .ctrlFullround r => keyWord .round r
  | .ctrlFinalround => keyWord .round 10#4
  | .ctrlSerialize => keyWord .final 11#4
  | .ctrlNoneIdle rc => keyWord .idle rc
  | .ctrlNoneError rc => keyWord .error rc
  | .ctrlUnreachable f r => keyWord f r

end Sys2Proof
end

