-- ==== Sys2Proof/Machine/Operands.lean ====
section
/-! DEFINITION. Operand assembly (30_encoding.md R73, 20_memory.md R51, R52) and the value each register reads as
(10_state.md R23 to R35). -/

namespace Sys2Proof.Machine

/-! ### Layout: blocks and matrices -/

/-- `M[r][c] = B[4r+c]` (R12, R51). -/
def toMatrix (b : Block) : Matrix := Vector.ofFn fun r => Vector.ofFn fun c => b[4 * r.val + c.val]

/-- `B[4r+c] = M[r][c]` (R12, R51). -/
def toBlock (m : Matrix) : Block := Vector.ofFn fun k => m[k.val / 4][k.val % 4]

/-- Byte-wise XOR of two words (R11). -/
def wordXor (a b : Word) : Word := Vector.ofFn fun j => a[j] ^^^ b[j]

/-! ### Write operands -/

/-- RKIDX keeps `v[3:0]` (R31, R73). -/
def rkidxOperand (v : Byte) : BitVec 4 := v.extractLsb' 0 4

/-- `if IN_CNT < 16: IBUF[IN_CNT] <- v` (R182). -/
def ibufAppend (ibuf : Block) (inCnt : BitVec 8) (v : Byte) : Block :=
  if h : inCnt.toNat < 16 then ibuf.set inCnt.toNat v else ibuf

/-- The DIN count plus one, saturating at 255 (R27, R182). -/
def inCntNext (inCnt : BitVec 8) : BitVec 8 := if inCnt = 255#8 then 255#8 else inCnt + 1#8

/-! ### Read operands -/

/-- The byte ERRCODE reads as (R211). -/
def ErrCode.code : ErrCode → Byte
  | .none => 0x00#8
  | .keyLength => 0x01#8
  | .blockLength => 0x02#8
  | .noKey => 0x03#8
  | .cmdWhileBusy => 0x04#8
  | .illegalCmd => 0x05#8
  | .unsupported => 0x06#8

/-- Byte `k` of OUT (R34). -/
def outByte (s : State) (k : BitVec 4) : Byte := s.out[k.toNat]

/-- Byte `k` of round key `n`, n ≤ 10: `RK[4n + k/4][k % 4]` (R35, R116). -/
def roundKeyByte (rk : Schedule) (n : Nat) (hn : n ≤ 10) (k : BitVec 4) : Byte :=
  rk[4 * n + k.toNat / 4][k.toNat % 4]

/-- What RKWIN[k] reads as; `none` where the rule draws a byte (R35). -/
def rkwinByte (s : State) (k : BitVec 4) : Option Byte :=
  if h : s.rkidx.toNat ≤ 10 then
    if s.keyValid then some (roundKeyByte s.rk s.rkidx.toNat h k) else none
  else some 0x00#8

end Sys2Proof.Machine
end

