-- ==== Sys2Proof/Machine/Ops.lean ====
section
/-! DEFINITION. The operations the meanings share: error entry and reset, the answer to a read, the gate that every
command but NOP and SOFT_RESET passes, the guard of a controller step. -/

namespace Sys2Proof.Machine

/-! ### Error entry, and the only way out of it -/

/-- Error entry, `raise E(code)`: ERRCODE and `fsm` change and nothing else (R220). -/
def raise (e : ErrCode) (s : State) : State := { s with errcode := e, fsm := .error }

/-- The effect of the reset input and of SOFT_RESET (R240, R43). IBUF, RK and ST become unspecified: each of their
bytes is a fresh free value (U5, log 3). The SBox ROM stays (R94). What HOST has read and the turns still to come are not the
block's, and a recorded fault of CTRL stays (log 11). -/
def applyReset (s : State) : State :=
  { s with
    fsm := .idle
    done := false
    keyValid := false
    errcode := .none
    inCnt := 0x00#8
    rc := 0#4
    ksidx := 0#6
    rkidx := 0#4
    gfa := 0x00#8
    gfb := 0x00#8
    sbin := 0x00#8
    out := Vector.ofFn fun _ => 0x00#8
    ibuf := Vector.ofFn fun k => Config.freeByte (s.draws + k)
    rk := Vector.ofFn fun i => Vector.ofFn fun j => Config.freeByte (s.draws + 16 + 4 * i + j)
    st := Vector.ofFn fun r => Vector.ofFn fun c => Config.freeByte (s.draws + 192 + 4 * r + c)
    draws := s.draws + 208 }

/-! ### Reads -/

/-- A read answers `v` to HOST and changes nothing of the block (R57, R180). -/
def respond (v : Byte) (s : State) : State := { s with reads := v :: s.reads }

/-- A read whose value is unspecified answers a fresh free byte (R13 `draw byte`, R35). -/
def respondDraw (s : State) : State :=
  { s with reads := Config.freeByte s.draws :: s.reads, draws := s.draws + 1 }

/-- A read answers `v`, or a fresh free byte where the rule gives no value. -/
def respondOrDraw (v : Option Byte) (s : State) : State :=
  match v with
  | some b => respond b s
  | none => respondDraw s

/-! ### Commands -/

/-- What every CMD write but NOP and SOFT_RESET does before its own effect `k`: ignored in ERROR, CMD_WHILE_BUSY while
an operation runs, `k` in IDLE (R185, R215, R218, R222). -/
def whenIdle (k : State → State) (s : State) : State :=
  match s.fsm with
  | .error => s
  | .idle => k s
  | .keyexp | .loaded | .whitened | .round | .final => raise .cmdWhileBusy s

/-! ### Controller steps -/

/-- "the model records a named fault and stops the affected agent" (93_implementation_defined.md): CTRL's fault is
recorded and nothing else changes. -/
def recordFault (e : Fault) (s : State) : State := { s with ctrlFault := some e }

/-- Once a fault is recorded CTRL is stuck: it has no further step (U7). -/
def unlessStuck (k : State → State) (s : State) : State := if s.ctrlFault = none then k s else s

/-- A controller step `k` is taken from the states R77 dispatches it from; met in any other, it records
UNREACHABLE_DISPATCH (R160, R219). -/
def whenDispatched (f : Fsm) (rc : BitVec 4) (k : State → State) (s : State) : State :=
  unlessStuck (fun s => if s.fsm = f ∧ s.rc = rc then k s else recordFault .unreachableDispatch s) s

end Sys2Proof.Machine
end

