-- ==== Sys2Proof/Machine/Commands.lean ====
section
/-! DEFINITION. The commands that start no operation: NOP, DECRYPT, SOFT_RESET and the reserved bytes
(45_host_interface.md, 60_exceptions.md). -/

namespace Sys2Proof.Machine

/-- CMD_NOP: no state changes, in any state (R186). -/
def execCmdNop (s : State) : Host.Outcome State Fault Refusal := .next s

/-- CMD_DECRYPT: always UNSUPPORTED when IDLE (R187, R214). -/
def execCmdDecrypt (s : State) : Host.Outcome State Fault Refusal := .next (whenIdle (raise .unsupported) s)

/-- CMD_SOFT_RESET: the reset effect, in every state (R188). -/
def execCmdSoftReset (s : State) : Host.Outcome State Fault Refusal := .next (applyReset s)

/-- CMD_ILLEGAL: a reserved byte raises ILLEGAL_CMD when IDLE (R75, R216). -/
def execCmdIllegal (_c : Byte) (s : State) : Host.Outcome State Fault Refusal :=
  .next (whenIdle (raise .illegalCmd) s)

end Sys2Proof.Machine
end

