-- ==== Sys2Proof/Machine/RoundTransform.lean ====
section
/-! DEFINITION. The four round transforms (43_round_transform.md). Each reads only the old matrix and writes all of the
new one together (R135). -/

namespace Sys2Proof.Machine

/-- `ST'[r][c] = SBox(ST[r][c])` (R130). -/
def subBytes (table : SboxTable) (m : Matrix) : Matrix := Vector.ofFn fun r => Vector.ofFn fun c => sbox table m[r][c]

/-- `ST'[r][c] = ST[(r + c) % 4][c]` (R131). -/
def shiftRows (m : Matrix) : Matrix := Vector.ofFn fun r => Vector.ofFn fun c => m[(r.val + c.val) % 4][c]

/-- One group of MixColumns: the four sums of R134. -/
def mixGroup (s : Word) : Word := #v[
  gfMul 0x02#8 s[0] ^^^ gfMul 0x03#8 s[1] ^^^ s[2] ^^^ s[3],
  s[0] ^^^ gfMul 0x02#8 s[1] ^^^ gfMul 0x03#8 s[2] ^^^ s[3],
  s[0] ^^^ s[1] ^^^ gfMul 0x02#8 s[2] ^^^ gfMul 0x03#8 s[3],
  gfMul 0x03#8 s[0] ^^^ s[1] ^^^ s[2] ^^^ gfMul 0x02#8 s[3]]

/-- MixColumns on each row of the row-major State (R133, R134). -/
def mixColumns (m : Matrix) : Matrix := Vector.ofFn fun g => mixGroup m[g]

/-- `ST'[r][c] = ST[r][c] ^ RK[4*round + r][c]` for a round 0..10 (R136). -/
def addRoundKey (m : Matrix) (rk : Schedule) (round : Fin 11) : Matrix :=
  Vector.ofFn fun r => wordXor m[r] rk[4 * round.val + r.val]

end Sys2Proof.Machine
end

