-- ==== Sys2Proof/Machine/Controller.lean ====
section
/-! DEFINITION. ENCRYPT and the round pipeline controller (44_pipeline_controller.md). -/

namespace Sys2Proof.Machine

/-! ### The encryption as a function -/

/-- A full round (R153, R154). -/
def fullRound (table : SboxTable) (m : Matrix) (rk : Schedule) (round : Fin 11) : Matrix :=
  addRoundKey (mixColumns (shiftRows (subBytes table m))) rk round

/-- The final round has no MixColumns (R155, R156). -/
def finalRound (table : SboxTable) (m : Matrix) (rk : Schedule) : Matrix :=
  addRoundKey (shiftRows (subBytes table m)) rk 10

/-- The State after whitening and full rounds 1..n, n ≤ 9 (R158). -/
def afterRounds (table : SboxTable) (m : Matrix) (rk : Schedule) : (n : Nat) → n ≤ 9 → Matrix
  | 0, _ => addRoundKey m rk 0
  | n + 1, h => fullRound table (afterRounds table m rk n (by omega)) rk ⟨n + 1, by omega⟩

/-- `Encrypt(W, P)` (R158), with the table its SubBytes looks up in. -/
def encryptBlock (table : SboxTable) (rk : Schedule) (p : Block) : Block :=
  toBlock (finalRound table (afterRounds table (toMatrix p) rk 9 (by omega)) rk)

/-! ### CMD_ENCRYPT -/

/-- ENCRYPT in IDLE: BLOCK_LENGTH first, then NO_KEY; otherwise the block is loaded and the pipeline starts
(R150, R213, R218). -/
def acceptEncrypt (s : State) : State :=
  if s.inCnt = 16#8 then
    if s.keyValid then
      { s with st := toMatrix s.ibuf, rc := 0#4, done := false, inCnt := 0x00#8, fsm := .loaded }
    else raise .noKey s
  else raise .blockLength s

/-- CMD_ENCRYPT (R150). -/
def execCmdEncrypt (s : State) : Host.Outcome State Fault Refusal := .next (whenIdle acceptEncrypt s)

/-! ### The controller steps -/

/-- CTRL_WHITEN: AddRoundKey(round 0), from (LOADED, 0) (R152, R136). -/
def execCtrlWhiten (s : State) : Host.Outcome State Fault Refusal :=
  .next <| whenDispatched .loaded 0#4
    (fun s => { s with st := addRoundKey s.st s.rk 0, rc := s.rc + 1#4, fsm := .whitened }) s

/-- CTRL_FULLROUND_FIRST: full round 1, from (WHITENED, 1) (R153). -/
def execCtrlFullroundFirst (s : State) : Host.Outcome State Fault Refusal :=
  .next <| whenDispatched .whitened 1#4
    (fun s => { s with st := fullRound s.sboxRom s.st s.rk 1, rc := s.rc + 1#4, fsm := .round }) s

/-- CTRL_FULLROUND r: full round r = RC, from (ROUND, 2..9) (R153). A term with r outside 2..9 is no row of R77. -/
def execCtrlFullround (r : BitVec 4) (s : State) : Host.Outcome State Fault Refusal :=
  if h : 2 ≤ r.toNat ∧ r.toNat ≤ 9 then
    .next <| whenDispatched .round r
      (fun s => { s with st := fullRound s.sboxRom s.st s.rk ⟨r.toNat, by omega⟩, rc := s.rc + 1#4, fsm := .round }) s
  else .next (unlessStuck (recordFault .unreachableDispatch) s)

/-- CTRL_FINALROUND: round 10 without MixColumns, from (ROUND, 10) (R155). -/
def execCtrlFinalround (s : State) : Host.Outcome State Fault Refusal :=
  .next <| whenDispatched .round 10#4
    (fun s => { s with st := finalRound s.sboxRom s.st s.rk, rc := s.rc + 1#4, fsm := .final }) s

/-- CTRL_SERIALIZE: all 16 bytes of OUT at once, from (FINAL, 11); RC stays 11 (R157). ST keeps its last value, and
keeps it until the next ENCRYPT or reset: DESIGN CHOICE, log 14 (R38 calls it unspecified between operations). -/
def execCtrlSerialize (s : State) : Host.Outcome State Fault Refusal :=
  .next <| whenDispatched .final 11#4 (fun s => { s with out := toBlock s.st, done := true, fsm := .idle }) s

/-- CTRL_NONE_IDLE: no step is enabled; CTRL is quiescent, not stuck (R159). -/
def execCtrlNoneIdle (s : State) : Host.Outcome State Fault Refusal := .next s

/-- CTRL_NONE_ERROR: no step is enabled; ERROR waits for reset (R159). -/
def execCtrlNoneError (s : State) : Host.Outcome State Fault Refusal := .next s

/-- CTRL_UNREACHABLE: "A model must not give them a meaning. If its step function meets one, it records the fault
UNREACHABLE_DISPATCH" (R160), "then CTRL is `stuck`" (U7). -/
def execCtrlUnreachable (_f : Fsm) (_r : BitVec 4) (s : State) : Host.Outcome State Fault Refusal :=
  .next (unlessStuck (recordFault .unreachableDispatch) s)

end Sys2Proof.Machine
end

