-- ==== Sys2Proof/Machine/KeySchedule.lean ====
section
/-! DEFINITION. The key schedule (42_key_schedule.md): the function KeyExpand (R110), the helpers (R112), LOAD_KEY's
acceptance (R111) and the key-expansion step (R113). -/

namespace Sys2Proof.Machine

/-- `RotWord([b0,b1,b2,b3]) = [b1,b2,b3,b0]` (R112). -/
def rotWord (w : Word) : Word := #v[w[1], w[2], w[3], w[0]]

/-- SBox on every byte of a word (R112). -/
def subWord (table : SboxTable) (w : Word) : Word := Vector.ofFn fun j => sbox table w[j]

/-- `temp` of the expansion for word `i`, from the word before it: every 4th word it is rotated, substituted, and has
`Rcon[i/4 - 1]` XORed into byte 0 (R110, R112, R113). -/
def scheduleTemp (table : SboxTable) (i : Nat) (hi : 4 ≤ i ∧ i < 44) (prev : Word) : Word :=
  if i % 4 = 0 then
    let t := subWord table (rotWord prev)
    t.set 0 (t[0] ^^^ rcon ⟨i / 4 - 1, by omega⟩)
  else prev

/-- Word `i` of the schedule from the words below it: `RK[i-4] ^ temp` (R110, R113). -/
def scheduleWord (table : SboxTable) (rk : Schedule) (i : Nat) (hi : 4 ≤ i ∧ i < 44) : Word :=
  wordXor rk[i - 4] (scheduleTemp table i hi rk[i - 1])

/-- The table with words 0..3 replaced by the key's rows (R51, R111). -/
def loadKeyWords (rk : Schedule) (key : Block) : Schedule :=
  Vector.ofFn fun i => if h : i.val < 4 then (toMatrix key)[i.val] else rk[i]

/-- The table after the first `n` iterations of R110's loop, i = 4 .. n+3. -/
def expandWords (table : SboxTable) (rk : Schedule) : Nat → Schedule
  | 0 => rk
  | n + 1 =>
    let w := expandWords table rk n
    if h : n + 4 < 44 then w.set (n + 4) (scheduleWord table w (n + 4) ⟨by omega, h⟩) else w

/-- `KeyExpand(key)` (R110): words 0..3 are the key, words 4..43 follow one by one. Every word is written, so what
the table held before does not matter. -/
def keyExpand (table : SboxTable) (key : Block) : Schedule :=
  expandWords table (loadKeyWords (Vector.ofFn fun _ => Vector.ofFn fun _ => 0x00#8) key) 40

/-! ### CMD_LOAD_KEY -/

/-- LOAD_KEY in IDLE: KEY_LENGTH unless exactly 16 bytes were written; otherwise the key goes into words 0..3 and the
expansion starts at word 4 (R111, R212). -/
def acceptLoadKey (s : State) : State :=
  if s.inCnt = 16#8 then
    { s with rk := loadKeyWords s.rk s.ibuf, keyValid := false, ksidx := 4#6, inCnt := 0x00#8, fsm := .keyexp }
  else raise .keyLength s

/-- CMD_LOAD_KEY (R111). -/
def execCmdLoadKey (s : State) : Host.Outcome State Fault Refusal := .next (whenIdle acceptLoadKey s)

/-! ### CTRL_KEYEXP -/

/-- One iteration of the expansion, for word `i = KSIDX`; the step for word 43 sets KEY_VALID and returns to IDLE
(R113). -/
def expandStep (s : State) (h : 4 ≤ s.ksidx.toNat ∧ s.ksidx.toNat < 44) : State :=
  { s with
    rk := s.rk.set s.ksidx.toNat (scheduleWord s.sboxRom s.rk s.ksidx.toNat h)
    ksidx := s.ksidx + 1#6
    keyValid := if s.ksidx = 43#6 then true else s.keyValid
    fsm := if s.ksidx = 43#6 then .idle else s.fsm }

/-- The expansion step in KEYEXP with KSIDX in range; UNREACHABLE_DISPATCH is recorded otherwise (R113, log 6). -/
def expandOrRecord (s : State) : State :=
  if h : s.fsm = .keyexp ∧ 4 ≤ s.ksidx.toNat ∧ s.ksidx.toNat < 44 then expandStep s h.2
  else recordFault .unreachableDispatch s

/-- CTRL_KEYEXP (R113): taken when `fsm` = KEYEXP, whatever RC is. The rule gives it `4 <= i <= 43` (log 6). -/
def execCtrlKeyexp (s : State) : Host.Outcome State Fault Refusal := .next (unlessStuck expandOrRecord s)

end Sys2Proof.Machine
end

