-- ==== Sys2Proof/Machine/Reads.lean ====
section
/-! DEFINITION. Register reads (45_host_interface.md R181), one meaning for each readable address. A read changes
nothing of the block (R57) and works in every controller state. -/

namespace Sys2Proof.Machine

/-- RD_CMD returns 0x00 (R23). -/
def execRdCmd (s : State) : Host.Outcome State Fault Refusal := .next (respond 0x00#8 s)

/-- RD_STATUS returns the flags (R24). -/
def execRdStatus (s : State) : Host.Outcome State Fault Refusal := .next (respond (statusByte s) s)

/-- RD_ERRCODE returns the first error's code (R25). -/
def execRdErrcode (s : State) : Host.Outcome State Fault Refusal := .next (respond s.errcode.code s)

/-- RD_DIN returns 0x00 (R26). -/
def execRdDin (s : State) : Host.Outcome State Fault Refusal := .next (respond 0x00#8 s)

/-- RD_IN_CNT returns the DIN count (R27). -/
def execRdInCnt (s : State) : Host.Outcome State Fault Refusal := .next (respond s.inCnt s)

/-- RD_FSM returns the code of `fsm` (R28, R78). -/
def execRdFsm (s : State) : Host.Outcome State Fault Refusal := .next (respond s.fsm.code s)

/-- RD_ROUNDCNT returns `zext_8(RC)` (R29). -/
def execRdRoundcnt (s : State) : Host.Outcome State Fault Refusal := .next (respond (s.rc.zeroExtend 8) s)

/-- RD_KSIDX returns the index zero-extended (R30). -/
def execRdKsidx (s : State) : Host.Outcome State Fault Refusal := .next (respond (s.ksidx.zeroExtend 8) s)

/-- RD_RKIDX returns `zext_8(RKIDX)` (R31). -/
def execRdRkidx (s : State) : Host.Outcome State Fault Refusal := .next (respond (s.rkidx.zeroExtend 8) s)

/-- RD_GFA returns operand a (R32). -/
def execRdGfa (s : State) : Host.Outcome State Fault Refusal := .next (respond s.gfa s)

/-- RD_GFB returns operand b (R32). -/
def execRdGfb (s : State) : Host.Outcome State Fault Refusal := .next (respond s.gfb s)

/-- RD_GFP returns `GFA · GFB` (R99). -/
def execRdGfp (s : State) : Host.Outcome State Fault Refusal := .next (respond (gfMul s.gfa s.gfb) s)

/-- RD_SBIN returns the SBox port's input (R33). -/
def execRdSbin (s : State) : Host.Outcome State Fault Refusal := .next (respond s.sbin s)

/-- RD_SBOUT returns `SBox(SBIN)` (R100). -/
def execRdSbout (s : State) : Host.Outcome State Fault Refusal := .next (respond (sbox s.sboxRom s.sbin) s)

/-- RD_OUT returns output byte k (R34). -/
def execRdOut (k : BitVec 4) (s : State) : Host.Outcome State Fault Refusal := .next (respond (outByte s k) s)

/-- RD_RKWIN returns byte k of the selected round key, 0x00 where RKIDX selects none, and a free byte while no key is
valid (R35). -/
def execRdRkwin (k : BitVec 4) (s : State) : Host.Outcome State Fault Refusal :=
  .next (respondOrDraw (rkwinByte s k) s)

/-- RD_RESERVED returns 0x00 (R55). -/
def execRdReserved (_a : Byte) (s : State) : Host.Outcome State Fault Refusal := .next (respond 0x00#8 s)

/-- What a read of address `a` returns in `s`, address by address (30_encoding.md R76, the column "read returns");
`none` where the read is a draw (R35). The meanings above say it register by register. -/
def registerValue (a : Byte) (s : State) : Option Byte :=
  if a = 0x00#8 then some 0x00#8
  else if a = 0x01#8 then some (statusByte s)
  else if a = 0x02#8 then some s.errcode.code
  else if a = 0x03#8 then some 0x00#8
  else if a = 0x04#8 then some s.inCnt
  else if a = 0x05#8 then some s.fsm.code
  else if a = 0x06#8 then some (s.rc.zeroExtend 8)
  else if a = 0x07#8 then some (s.ksidx.zeroExtend 8)
  else if a = 0x08#8 then some (s.rkidx.zeroExtend 8)
  else if a = 0x09#8 then some s.gfa
  else if a = 0x0A#8 then some s.gfb
  else if a = 0x0B#8 then some (gfMul s.gfa s.gfb)
  else if a = 0x0C#8 then some s.sbin
  else if a = 0x0D#8 then some (sbox s.sboxRom s.sbin)
  else if a.extractLsb' 4 4 = 1#4 then some (outByte s (a.extractLsb' 0 4))
  else if a.extractLsb' 4 4 = 2#4 then rkwinByte s (a.extractLsb' 0 4)
  else some 0x00#8

end Sys2Proof.Machine
end

