-- ==== Sys2Proof/Machine/Writes.lean ====
section
/-! DEFINITION. Register writes other than to CMD (45_host_interface.md R182, R183, R184, R189). Each works in every
controller state and raises nothing. -/

namespace Sys2Proof.Machine

/-- WR_DIN appends a byte: stored while IBUF has room, counted always, the count saturating (R182). -/
def execWrDin (v : Byte) (s : State) : Host.Outcome State Fault Refusal :=
  .next { s with ibuf := ibufAppend s.ibuf s.inCnt v, inCnt := inCntNext s.inCnt }

/-- WR_RKIDX keeps `v[3:0]` (R183). -/
def execWrRkidx (v : Byte) (s : State) : Host.Outcome State Fault Refusal := .next { s with rkidx := rkidxOperand v }

/-- WR_GFA (R184). -/
def execWrGfa (v : Byte) (s : State) : Host.Outcome State Fault Refusal := .next { s with gfa := v }

/-- WR_GFB (R184). -/
def execWrGfb (v : Byte) (s : State) : Host.Outcome State Fault Refusal := .next { s with gfb := v }

/-- WR_SBIN (R184). -/
def execWrSbin (v : Byte) (s : State) : Host.Outcome State Fault Refusal := .next { s with sbin := v }

/-- WR_IGNORED: a write to a read-only or reserved address changes nothing (R189, R55). -/
def execWrIgnored (_a : Byte) (s : State) : Host.Outcome State Fault Refusal := .next s

end Sys2Proof.Machine
end

