-- ==== Sys2Proof/Machine/Dispatch.lean ====
section
/-! DEFINITION. One arm for each instruction, each a direct call of its meaning. -/

namespace Sys2Proof.Machine

/-- The effect of one instruction. -/
def exec (i : Instr) (s : State) : Host.Outcome State Fault Refusal :=
  match i with
  -- commands
  | .cmdNop => Sys2Proof.Machine.execCmdNop s
  | .cmdLoadKey => Sys2Proof.Machine.execCmdLoadKey s
  | .cmdEncrypt => Sys2Proof.Machine.execCmdEncrypt s
  | .cmdDecrypt => Sys2Proof.Machine.execCmdDecrypt s
  | .cmdSoftReset => Sys2Proof.Machine.execCmdSoftReset s
  | .cmdIllegal c => Sys2Proof.Machine.execCmdIllegal c s
  -- register reads
  | .rdCmd _ => Sys2Proof.Machine.execRdCmd s
  | .rdStatus _ => Sys2Proof.Machine.execRdStatus s
  | .rdErrcode _ => Sys2Proof.Machine.execRdErrcode s
  | .rdDin _ => Sys2Proof.Machine.execRdDin s
  | .rdInCnt _ => Sys2Proof.Machine.execRdInCnt s
  | .rdFsm _ => Sys2Proof.Machine.execRdFsm s
  | .rdRoundcnt _ => Sys2Proof.Machine.execRdRoundcnt s
  | .rdKsidx _ => Sys2Proof.Machine.execRdKsidx s
  | .rdRkidx _ => Sys2Proof.Machine.execRdRkidx s
  | .rdGfa _ => Sys2Proof.Machine.execRdGfa s
  | .rdGfb _ => Sys2Proof.Machine.execRdGfb s
  | .rdGfp _ => Sys2Proof.Machine.execRdGfp s
  | .rdSbin _ => Sys2Proof.Machine.execRdSbin s
  | .rdSbout _ => Sys2Proof.Machine.execRdSbout s
  | .rdOut k _ => Sys2Proof.Machine.execRdOut k s
  | .rdRkwin k _ => Sys2Proof.Machine.execRdRkwin k s
  | .rdReserved a _ => Sys2Proof.Machine.execRdReserved a s
  -- register writes
  | .wrDin v => Sys2Proof.Machine.execWrDin v s
  | .wrRkidx v => Sys2Proof.Machine.execWrRkidx v s
  | .wrGfa v => Sys2Proof.Machine.execWrGfa v s
  | .wrGfb v => Sys2Proof.Machine.execWrGfb v s
  | .wrSbin v => Sys2Proof.Machine.execWrSbin v s
  | .wrIgnored a _ => Sys2Proof.Machine.execWrIgnored a s
  -- controller steps
  | .ctrlKeyexp _ => Sys2Proof.Machine.execCtrlKeyexp s
  | .ctrlWhiten => Sys2Proof.Machine.execCtrlWhiten s
  | .ctrlFullroundFirst => Sys2Proof.Machine.execCtrlFullroundFirst s
  | .ctrlFullround r => Sys2Proof.Machine.execCtrlFullround r s
  | .ctrlFinalround => Sys2Proof.Machine.execCtrlFinalround s
  | .ctrlSerialize => Sys2Proof.Machine.execCtrlSerialize s
  | .ctrlNoneIdle _ => Sys2Proof.Machine.execCtrlNoneIdle s
  | .ctrlNoneError _ => Sys2Proof.Machine.execCtrlNoneError s
  | .ctrlUnreachable f r => Sys2Proof.Machine.execCtrlUnreachable f r s

end Sys2Proof.Machine
end

