-- ==== Sys2Proof/Machine/Step.lean ====
section
/-! DEFINITION. One step of the interleaving (20_memory.md R60): the next turn is taken off the list and made. -/

namespace Sys2Proof.Machine

/-- One step. A bus turn runs the transaction its word decodes to; the reset turn is the reset input (R190, R240); a
controller turn runs the step that (fsm, RC) selects (R77). With no turn listed it is CTRL's (log 1). -/
def step (s : State) : Host.Outcome State Fault Refusal :=
  match s.turns with
  | .bus w :: ts => exec (decodeTransaction w) { s with turns := ts }
  | .reset :: ts => .next (applyReset { s with turns := ts })
  | .ctrl :: ts => exec (decodeDispatch s.fsm s.rc) { s with turns := ts }
  | [] => exec (decodeDispatch s.fsm s.rc) s

/-- The index a fetched key-expansion step needs: 4..43 (R113); another value is replaced by 4, LOAD_KEY's. -/
def State.fetchKsidx (f : Fsm) (ksidx : BitVec 6) : BitVec 6 :=
  if f = .keyexp ∧ ¬(4 ≤ ksidx.toNat ∧ ksidx.toNat < 44) then 4#6 else ksidx

/-- `s` with the instruction of the bits `w` as the one the next step runs (log 8). A transaction word becomes the
next turn. A dispatch key is fetched from (fsm, RC) by a CTRL that is not stuck, so these are set and the next turn is
CTRL's. -/
def State.withFetchWord (s : State) (nbits w : Nat) : State :=
  if nbits ≤ 16 then
    match fsmOfCode (BitVec.ofNat 8 (w / 16)) with
    | some f =>
      { s with
        fsm := f, rc := BitVec.ofNat 4 w, ksidx := State.fetchKsidx f s.ksidx, ctrlFault := none
        turns := .ctrl :: s.turns }
    | none => s
  else { s with turns := .bus (BitVec.ofNat 17 w) :: s.turns }

end Sys2Proof.Machine
end

