-- ==== Sys2Proof/Safety.lean ====
section
/-! DEFINITION. The terms claims use: which agent an instruction belongs to, which turns leave a running operation
alone, what a substitution table must meet, the invariant of 10_state.md R42 with the register bounds of R21, R25, R30
and R39, and when a run has ended. -/

namespace Sys2Proof

/-! ### Kinds of instruction -/

/-- The address a read transaction reads (R181); `none` for every other instruction. -/
def Instr.readsFrom : Instr → Option Byte
  | .rdCmd _ => some 0x00#8
  | .rdStatus _ => some 0x01#8
  | .rdErrcode _ => some 0x02#8
  | .rdDin _ => some 0x03#8
  | .rdInCnt _ => some 0x04#8
  | .rdFsm _ => some 0x05#8
  | .rdRoundcnt _ => some 0x06#8
  | .rdKsidx _ => some 0x07#8
  | .rdRkidx _ => some 0x08#8
  | .rdGfa _ => some 0x09#8
  | .rdGfb _ => some 0x0A#8
  | .rdGfp _ => some 0x0B#8
  | .rdSbin _ => some 0x0C#8
  | .rdSbout _ => some 0x0D#8
  | .rdOut k _ => some (1#4 ++ k)
  | .rdRkwin k _ => some (2#4 ++ k)
  | .rdReserved a _ => some a
  | .cmdNop | .cmdLoadKey | .cmdEncrypt | .cmdDecrypt | .cmdSoftReset | .cmdIllegal _ => none
  | .wrDin _ | .wrRkidx _ | .wrGfa _ | .wrGfb _ | .wrSbin _ | .wrIgnored _ _ => none
  | .ctrlKeyexp _ | .ctrlWhiten | .ctrlFullroundFirst | .ctrlFullround _ | .ctrlFinalround | .ctrlSerialize => none
  | .ctrlNoneIdle _ | .ctrlNoneError _ | .ctrlUnreachable _ _ => none

/-- A CMD write other than NOP and SOFT_RESET: the commands that can raise an error (R218). -/
def Instr.isGatedCommand : Instr → Bool
  | .cmdLoadKey | .cmdEncrypt | .cmdDecrypt | .cmdIllegal _ => true
  | .cmdNop | .cmdSoftReset => false
  | .rdCmd _ | .rdStatus _ | .rdErrcode _ | .rdDin _ | .rdInCnt _ | .rdFsm _ | .rdRoundcnt _ => false
  | .rdKsidx _ | .rdRkidx _ | .rdGfa _ | .rdGfb _ | .rdGfp _ | .rdSbin _ | .rdSbout _ => false
  | .rdOut _ _ | .rdRkwin _ _ | .rdReserved _ _ => false
  | .wrDin _ | .wrRkidx _ | .wrGfa _ | .wrGfb _ | .wrSbin _ | .wrIgnored _ _ => false
  | .ctrlKeyexp _ | .ctrlWhiten | .ctrlFullroundFirst | .ctrlFullround _ | .ctrlFinalround | .ctrlSerialize => false
  | .ctrlNoneIdle _ | .ctrlNoneError _ | .ctrlUnreachable _ _ => false

/-- A row of the controller's dispatch (R77). -/
def Instr.isControllerStep : Instr → Bool
  | .ctrlKeyexp _ | .ctrlWhiten | .ctrlFullroundFirst | .ctrlFullround _ | .ctrlFinalround | .ctrlSerialize => true
  | .ctrlNoneIdle _ | .ctrlNoneError _ | .ctrlUnreachable _ _ => true
  | .cmdNop | .cmdLoadKey | .cmdEncrypt | .cmdDecrypt | .cmdSoftReset | .cmdIllegal _ => false
  | .rdCmd _ | .rdStatus _ | .rdErrcode _ | .rdDin _ | .rdInCnt _ | .rdFsm _ | .rdRoundcnt _ => false
  | .rdKsidx _ | .rdRkidx _ | .rdGfa _ | .rdGfb _ | .rdGfp _ | .rdSbin _ | .rdSbout _ => false
  | .rdOut _ _ | .rdRkwin _ _ | .rdReserved _ _ => false
  | .wrDin _ | .wrRkidx _ | .wrGfa _ | .wrGfb _ | .wrSbin _ | .wrIgnored _ _ => false

namespace Machine

/-- A turn HOST may take while an operation runs without disturbing it: a read, a register write or NOP, but no other
command and no reset (R162, R192, R249). -/
def Turn.sparesOperation : Turn → Bool
  | .bus w => !(decodeTransaction w).isGatedCommand && !(decodeTransaction w == .cmdSoftReset)
  | .reset => false
  | .ctrl => false

/-- The next turn is CTRL's: it is listed, or none is (log 1). -/
def State.ctrlNext (s : State) : Prop := (∃ ts, s.turns = .ctrl :: ts) ∨ s.turns = []

/-- The next turn is a reset: the reset input, or a SOFT_RESET command (R190, R188). -/
def State.resetNext (s : State) : Prop := ∃ ts, s.turns = .reset :: ts ∨ s.turns = .bus 0x1000F#17 :: ts

/-! ### The invariant -/

/-- The SBox values the source fixes (R96). -/
def sourceSboxValues : List (Byte × Byte) := [
  (0x00#8, 0x63#8), (0x03#8, 0x7B#8), (0x45#8, 0x6E#8), (0xB4#8, 0x8D#8), (0x01#8, 0x7C#8),
  (0x07#8, 0xC5#8), (0x0F#8, 0x76#8), (0x1F#8, 0xC0#8), (0x3F#8, 0x75#8), (0x7F#8, 0xD2#8)]

/-- What the parameter SBOX_TABLE must meet (R9, R96, U8): the values the source fixes, and the end-to-end vector of
its §8 (95_test_vectors.md L1-7). -/
structure MeetsSource (table : SboxTable) : Prop where
  /-- R96 -/
  values : ∀ p ∈ sourceSboxValues, sbox table p.1 = p.2
  /-- L1-7 -/
  endToEnd :
    encryptBlock table (keyExpand table (Vector.ofFn fun _ => 0x00#8))
      #v[0x00#8, 0x00#8, 0x01#8, 0x01#8, 0x03#8, 0x03#8, 0x07#8, 0x07#8,
         0x0F#8, 0x0F#8, 0x1F#8, 0x1F#8, 0x3F#8, 0x3F#8, 0x7F#8, 0x7F#8] =
      #v[0xC7#8, 0xD1#8, 0x24#8, 0x19#8, 0x48#8, 0x9E#8, 0x3B#8, 0x62#8,
         0x33#8, 0xA2#8, 0xC5#8, 0xA7#8, 0xF4#8, 0x56#8, 0x31#8, 0x72#8]

/-- Words 4..n-1 of the table follow from the words below them by the schedule's rule (R110). -/
def FollowsSchedule (table : SboxTable) (rk : Schedule) (n : Nat) : Prop :=
  ∀ (i : Nat) (hi : 4 ≤ i ∧ i < 44), i < n → rk[i] = scheduleWord table rk i hi

/-- What every step keeps (R42), with the register bounds of R21, R25, R30 and R39. -/
structure State.Inv (s : State) : Prop where
  /-- R42(d) -/
  keyexp : s.fsm = .keyexp → s.keyValid = false ∧ 4 ≤ s.ksidx.toNat ∧ s.ksidx.toNat < 44
  /-- R42(e) -/
  pipeline : s.fsm = .loaded ∨ s.fsm = .whitened ∨ s.fsm = .round ∨ s.fsm = .final →
    s.keyValid = true ∧ s.done = false
  /-- R42(e) -/
  loaded : s.fsm = .loaded → s.rc = 0#4
  /-- R42(e) -/
  whitened : s.fsm = .whitened → s.rc = 1#4
  /-- R42(e) -/
  round : s.fsm = .round → 2 ≤ s.rc.toNat ∧ s.rc.toNat ≤ 10
  /-- R42(e) -/
  final : s.fsm = .final → s.rc = 11#4
  /-- `fsm` is ERROR exactly when an error code is held (R25, R220) -/
  error : s.fsm = .error ↔ s.errcode ≠ .none
  /-- RC stops at 11 (R21, R39) -/
  rcBound : s.rc.toNat ≤ 11
  /-- KSIDX is 0 or 4..44 (R21, R30) -/
  ksidxBound : s.ksidx = 0#6 ∨ (4 ≤ s.ksidx.toNat ∧ s.ksidx.toNat ≤ 44)
  /-- a valid table is a finished expansion (R30, R41) -/
  keyValidDone : s.keyValid = true → s.ksidx = 44#6
  /-- a finished encryption has mixed 11 keys (R39, R157) -/
  doneRc : s.done = true → s.rc = 11#4
  /-- R42(c): a valid table is the expansion of its own first four words, which are the key (R116) -/
  schedule : s.keyValid = true → FollowsSchedule s.sboxRom s.rk 44
  /-- R117: while the expansion runs, the words below KSIDX are the new key's -/
  partialSchedule : s.fsm = .keyexp → FollowsSchedule s.sboxRom s.rk s.ksidx.toNat
  /-- the SBox ROM is a table the source allows (R9, R96) -/
  rom : MeetsSource s.sboxRom
  /-- CTRL has met no unreachable dispatch (R160, R219) -/
  noFault : s.ctrlFault = none

/-! ### Runs -/

/-- A run has ended: no transaction is left and CTRL has no enabled step (R258). -/
def State.ended (s : State) : Prop := s.turns = [] ∧ busy s.fsm = false

/-- A run that ended well: not in ERROR (R258, "a claim that the program succeeds must take ERR = 0"). -/
def State.succeeded (s : State) : Prop := s.ended ∧ err s.fsm = false

end Machine

end Sys2Proof
end

