-- ==== Sys2Proof/Certificates/Slice0/Obligations.lean ====
section
/-! DEFINITION. The statements for the provers. Where a statement writes the next state as a record over the old one,
every field it does not name is unchanged: that is the statement's frame. The SBox ROM is a field of the state and an
argument of the functions, so a statement about every state or every table holds for every SBOX_TABLE (R9). -/

open Sys2Proof Sys2Proof.Machine

/-! ### Encoding -/

/-- Decoding the encoding of a well-formed instruction gives it back, with every operand at every value. -/
def Obligations.DecodeOfEncodeIsIdentity : Prop :=
  ∀ i : Instr, i.wf = true → decode (encode i) = .ok i

/-- Whatever bytes the decoder accepts, it reads a well-formed instruction whose encoding is those bytes: no two
encodings share an instruction and no bit is dropped. -/
def Obligations.EncodeOfDecodeIsIdentity : Prop :=
  ∀ (bs : List Byte) (i : Instr), decode bs = .ok i → i.wf = true ∧ encode i = bs

/-- Every 17-bit word decodes: to a read of its address if bit 16 is 0, otherwise to no read and to no controller
step. Every (fsm, RC) pair decodes to a controller step. -/
def Obligations.EveryWordAndEveryDispatchPairDecodes : Prop :=
  (∀ a d : Byte, ∃ i, decode (readWord a d) = .ok i ∧ i.readsFrom = some a) ∧
  (∀ a v : Byte, ∃ i, decode (writeWord a v) = .ok i ∧ i.readsFrom = none ∧ i.isControllerStep = false) ∧
  (∀ (f : Fsm) (rc : BitVec 4), ∃ i, decode (keyWord f rc) = .ok i ∧ i.isControllerStep = true)

/-- Words written out from the spec's tables decode to the rows they stand for. -/
def Obligations.WrittenOutWordsDecode : Prop :=
  decodeTableWord 24 0x10001 = some .cmdLoadKey ∧
  decodeTableWord 24 0x1000F = some .cmdSoftReset ∧
  decodeTableWord 24 0x10042 = some (.cmdIllegal 0x42#8) ∧
  decodeTableWord 24 0x00100 = some (.rdStatus 0x00#8) ∧
  decodeTableWord 24 0x02F00 = some (.rdRkwin 15#4 0x00#8) ∧
  decodeTableWord 24 0x103FF = some (.wrDin 0xFF#8) ∧
  decodeTableWord 24 0x101FF = some (.wrIgnored 0x01#8 0xFF#8) ∧
  decodeTableWord 16 0x020 = some .ctrlWhiten ∧
  decodeTableWord 16 0x04A = some .ctrlFinalround ∧
  decodeTableWord 16 0x05B = some .ctrlSerialize

/-! ### The step -/

/-- A bus turn runs the instruction its word decodes to, on the state with that turn taken off the list. -/
def Obligations.BusTurnRunsTheDecodedTransaction : Prop :=
  ∀ (s : State) (w : BitVec 17) (ts : List Turn) (i : Instr), s.turns = .bus w :: ts →
    decode (transactionBytes w) = .ok i → step s = exec i { s with turns := ts }

/-- CTRL's turn, listed or when no turn is, runs the instruction the key (fsm, RC) decodes to. -/
def Obligations.ControllerTurnRunsTheDispatchedStep : Prop :=
  ∀ (s : State) (i : Instr), decode (keyWord s.fsm s.rc) = .ok i →
    (∀ ts, s.turns = .ctrl :: ts → step s = exec i { s with turns := ts }) ∧
    (s.turns = [] → step s = exec i s)

/-- The reset input and SOFT_RESET have one effect, in every state: every register that R240 gives a value has it, no
controller step is left, and the SBox ROM stays. IBUF, RK and ST are unspecified and nothing is said of them. That what
HOST has read, the turns to come and a recorded fault stay is the model's choice (logs 1, 2 and 11). -/
def Obligations.ResetInputAndSoftResetSetEveryRegister : Prop :=
  ∀ s : State, ∃ t, exec .cmdSoftReset s = .next t ∧
    (∀ ts, s.turns = .reset :: ts → step s = .next { t with turns := ts }) ∧
    t.fsm = .idle ∧ t.done = false ∧ t.keyValid = false ∧ t.errcode = .none ∧ t.inCnt = 0x00#8 ∧ t.rc = 0#4 ∧
    t.ksidx = 0#6 ∧ t.rkidx = 0#4 ∧ t.gfa = 0x00#8 ∧ t.gfb = 0x00#8 ∧ t.sbin = 0x00#8 ∧
    (∀ (k : Nat) (hk : k < 16), t.out[k] = 0x00#8) ∧
    t.sboxRom = s.sboxRom ∧ t.ctrlFault = s.ctrlFault ∧ t.turns = s.turns ∧ t.reads = s.reads ∧
    exec (decodeDispatch t.fsm t.rc) t = .next t

/-! ### Reads -/

/-- Every read transaction completes, answers what R76 gives for its address, and changes nothing of the block. Where
the rule gives no value (RKWIN without a valid key) the answer is a free byte. -/
def Obligations.EveryReadAnswersItsRegister : Prop :=
  ∀ (i : Instr) (a : Byte) (s : State), i.wf = true → i.readsFrom = some a →
    (∀ v, registerValue a s = some v → exec i s = .next { s with reads := v :: s.reads }) ∧
    (registerValue a s = none →
      ∃ v, exec i s = .next { s with reads := v :: s.reads, draws := s.draws + 1 })

/-- Two reads of one address with nothing between return equal values, unless the value is a draw. -/
def Obligations.RepeatedReadsAgree : Prop :=
  ∀ (i : Instr) (a : Byte) (s t u : State), i.wf = true → i.readsFrom = some a → registerValue a s ≠ none →
    exec i s = .next t → exec i t = .next u → ∃ v, u.reads = v :: v :: s.reads

/-- STATUS bit by bit. -/
def Obligations.StatusReadShowsTheFlags : Prop :=
  ∀ (s : State) (d : Byte), ∃ v : Byte, exec (.rdStatus d) s = .next { s with reads := v :: s.reads } ∧
    (v.getLsbD 0 = true ↔ s.fsm ≠ .idle ∧ s.fsm ≠ .error) ∧ v.getLsbD 1 = s.done ∧ v.getLsbD 2 = s.keyValid ∧
    (v.getLsbD 3 = true ↔ s.fsm = .error) ∧ v.extractLsb' 4 4 = 0#4 ∧
    ¬(v.getLsbD 0 = true ∧ v.getLsbD 3 = true)

/-- RKWIN: the byte of the selected round key, 0x00 where the selector selects none, and otherwise some byte, drawn
for this read. A write to the window is ignored. -/
def Obligations.RkwinShowsTheSelectedRoundKey : Prop :=
  ∀ (k : BitVec 4) (d : Byte) (s : State),
    (∀ h : s.rkidx.toNat ≤ 10, s.keyValid = true →
      exec (.rdRkwin k d) s =
        .next { s with reads := s.rk[4 * s.rkidx.toNat + k.toNat / 4][k.toNat % 4] :: s.reads }) ∧
    (11 ≤ s.rkidx.toNat → exec (.rdRkwin k d) s = .next { s with reads := 0x00#8 :: s.reads }) ∧
    (s.rkidx.toNat ≤ 10 → s.keyValid = false →
      ∃ v, exec (.rdRkwin k d) s = .next { s with reads := v :: s.reads, draws := s.draws + 1 }) ∧
    (∀ i, decode (writeWord (2#4 ++ k) d) = .ok i → exec i s = .next s)

/-! ### Register writes -/

/-- DIN: stored while IN_CNT < 16, counted up to 255, in every controller state. -/
def Obligations.DinWriteAppendsAndCounts : Prop :=
  ∀ (v : Byte) (s : State), decode (writeWord 0x03#8 v) = .ok (.wrDin v) ∧
    (∀ h : s.inCnt.toNat < 16,
      exec (.wrDin v) s = .next { s with ibuf := s.ibuf.set s.inCnt.toNat v, inCnt := s.inCnt + 1#8 }) ∧
    (16 ≤ s.inCnt.toNat → s.inCnt.toNat < 255 → exec (.wrDin v) s = .next { s with inCnt := s.inCnt + 1#8 }) ∧
    (s.inCnt.toNat = 255 → exec (.wrDin v) s = .next s)

/-- RKIDX keeps bits 3:0 of the byte, bit by bit, in every controller state. -/
def Obligations.RkidxWriteKeepsTheLowBits : Prop :=
  ∀ (v : Byte) (s : State), decode (writeWord 0x08#8 v) = .ok (.wrRkidx v) ∧
    ∃ t, exec (.wrRkidx v) s = .next t ∧ t = { s with rkidx := t.rkidx } ∧ t.rkidx.toNat = v.toNat % 16

/-- GFA, GFB and SBIN take the whole byte and nothing else changes, in every controller state. -/
def Obligations.TestPortWritesStoreTheByte : Prop :=
  ∀ (v : Byte) (s : State),
    decode (writeWord 0x09#8 v) = .ok (.wrGfa v) ∧ exec (.wrGfa v) s = .next { s with gfa := v } ∧
    decode (writeWord 0x0A#8 v) = .ok (.wrGfb v) ∧ exec (.wrGfb v) s = .next { s with gfb := v } ∧
    decode (writeWord 0x0C#8 v) = .ok (.wrSbin v) ∧ exec (.wrSbin v) s = .next { s with sbin := v }

/-- A write to STATUS, ERRCODE, IN_CNT, FSM, ROUNDCNT, KSIDX, GFP, SBOUT, OUT, RKWIN or a reserved address decodes to
WR_IGNORED and changes no state. -/
def Obligations.WritesToReadOnlyAddressesAreIgnored : Prop :=
  ∀ (a d : Byte) (s : State),
    a ∈ [0x01#8, 0x02#8, 0x04#8, 0x05#8, 0x06#8, 0x07#8, 0x0B#8, 0x0D#8, 0x0E#8, 0x0F#8] ∨ 16 ≤ a.toNat →
    decode (writeWord a d) = .ok (.wrIgnored a d) ∧ exec (.wrIgnored a d) s = .next s

/-! ### Commands -/

/-- NOP: word 0x10000, no state change, no error in any state. -/
def Obligations.NopChangesNothing : Prop :=
  decodeTableWord 24 0x10000 = some .cmdNop ∧ ∀ s : State, exec .cmdNop s = .next s

/-- A write of `v` to CMD follows R185's order, with the effects of R111, R150, R187 and R188 written out. -/
def Obligations.CommandWriteFollowsTheDispatchOrder : Prop :=
  ∀ (v : Byte) (s : State) (i : Instr), decode (writeWord 0x00#8 v) = .ok i →
    ∃ t, exec i s = .next t ∧
      if s.fsm = .error then
        if v = 0x0F#8 then exec .cmdSoftReset s = .next t else t = s
      else if v = 0x00#8 then t = s
      else if v = 0x0F#8 then exec .cmdSoftReset s = .next t
      else if s.fsm ≠ .idle then t = { s with errcode := .cmdWhileBusy, fsm := .error }
      else if v = 0x01#8 then
        if s.inCnt ≠ 16#8 then t = { s with errcode := .keyLength, fsm := .error }
        else t = { s with rk := t.rk, keyValid := false, ksidx := 4#6, inCnt := 0x00#8, fsm := .keyexp }
      else if v = 0x02#8 then
        if s.inCnt ≠ 16#8 then t = { s with errcode := .blockLength, fsm := .error }
        else if s.keyValid = false then t = { s with errcode := .noKey, fsm := .error }
        else t = { s with st := t.st, rc := 0#4, done := false, inCnt := 0x00#8, fsm := .loaded }
      else if v = 0x03#8 then t = { s with errcode := .unsupported, fsm := .error }
      else t = { s with errcode := .illegalCmd, fsm := .error }

/-- LOAD_KEY accepted: the 16 bytes go into words 0..3 row by row, the other words stay, the expansion starts at 4. -/
def Obligations.LoadKeyAcceptedStartsTheExpansion : Prop :=
  ∀ s : State, s.fsm = .idle → s.inCnt = 16#8 → ∃ t, exec .cmdLoadKey s = .next t ∧
    t = { s with rk := t.rk, keyValid := false, ksidx := 4#6, inCnt := 0x00#8, fsm := .keyexp } ∧
    (∀ (i j : Nat) (hi : i < 4) (hj : j < 4), t.rk[i][j] = s.ibuf[4 * i + j]) ∧
    (∀ (i : Nat) (hi : 4 ≤ i ∧ i < 44), t.rk[i] = s.rk[i])

/-- KEY_LENGTH: LOAD_KEY in IDLE with IN_CNT ≠ 16 raises it and changes only ERRCODE and fsm (IN_CNT stays). -/
def Obligations.LoadKeyRaisesKeyLength : Prop :=
  ∀ s : State, s.fsm = .idle → s.inCnt ≠ 16#8 →
    exec .cmdLoadKey s = .next { s with errcode := .keyLength, fsm := .error }

/-- ENCRYPT accepted: the block is loaded row by row, RC and DONE are cleared, the table and OUT stay. -/
def Obligations.EncryptAcceptedLoadsTheBlock : Prop :=
  ∀ s : State, s.fsm = .idle → s.inCnt = 16#8 → s.keyValid = true → ∃ t, exec .cmdEncrypt s = .next t ∧
    t = { s with st := t.st, rc := 0#4, done := false, inCnt := 0x00#8, fsm := .loaded } ∧
    (∀ (r c : Nat) (hr : r < 4) (hc : c < 4), t.st[r][c] = s.ibuf[4 * r + c])

/-- ENCRYPT in IDLE raises BLOCK_LENGTH when IN_CNT ≠ 16, and NO_KEY when IN_CNT = 16 and KEY_VALID = 0. -/
def Obligations.EncryptRaisesBlockLengthOrNoKey : Prop :=
  ∀ s : State, s.fsm = .idle →
    (s.inCnt ≠ 16#8 → exec .cmdEncrypt s = .next { s with errcode := .blockLength, fsm := .error }) ∧
    (s.inCnt = 16#8 → s.keyValid = false →
      exec .cmdEncrypt s = .next { s with errcode := .noKey, fsm := .error })

/-- DECRYPT raises UNSUPPORTED whenever the block is IDLE. -/
def Obligations.DecryptRaisesUnsupported : Prop :=
  ∀ s : State, s.fsm = .idle → exec .cmdDecrypt s = .next { s with errcode := .unsupported, fsm := .error }

/-- A reserved byte raises ILLEGAL_CMD when `fsm` = IDLE. -/
def Obligations.ReservedCommandRaisesIllegalCmd : Prop :=
  ∀ (c : Byte) (s : State), c ∉ [0x00#8, 0x01#8, 0x02#8, 0x03#8, 0x0F#8] → s.fsm = .idle →
    decode (writeWord 0x00#8 c) = .ok (.cmdIllegal c) ∧
    exec (.cmdIllegal c) s = .next { s with errcode := .illegalCmd, fsm := .error }

/-- While BUSY every command byte but 0x00 and 0x0F raises CMD_WHILE_BUSY, and no controller step runs after it: the
one (fsm, RC) then selects changes nothing. -/
def Obligations.CommandWhileBusyAbandonsTheOperation : Prop :=
  ∀ (v : Byte) (s : State) (i : Instr), v ≠ 0x00#8 → v ≠ 0x0F#8 → busy s.fsm = true →
    decode (writeWord 0x00#8 v) = .ok i →
    exec i s = .next { s with errcode := .cmdWhileBusy, fsm := .error } ∧
    ∀ t, exec i s = .next t → exec (decodeDispatch t.fsm t.rc) t = .next t

/-- Error entry is precise: an instruction that enters ERROR is a command, it changes `fsm` and ERRCODE and nothing
else, and CTRL has no step then. -/
def Obligations.ErrorEntryChangesOnlyFsmAndErrcode : Prop :=
  ∀ (i : Instr) (s t : State), exec i s = .next t → s.fsm ≠ .error → t.fsm = .error →
    i.isGatedCommand = true ∧ (∃ e : ErrCode, e ≠ .none ∧ t = { s with errcode := e, fsm := .error }) ∧
    exec (decodeDispatch t.fsm t.rc) t = .next t

/-- Controller steps and register transactions never change ERRCODE. -/
def Obligations.OnlyCommandsWriteErrcode : Prop :=
  ∀ (i : Instr) (s t : State), exec i s = .next t → t.errcode ≠ s.errcode →
    i.isGatedCommand = true ∨ i = .cmdSoftReset

/-- In ERROR every command but SOFT_RESET is ignored, while register writes keep working. -/
def Obligations.CommandsAreIgnoredInError : Prop :=
  ∀ s : State, s.fsm = .error →
    (∀ i : Instr, i.isGatedCommand = true ∨ i = .cmdNop → exec i s = .next s) ∧
    (∀ v : Byte, exec (.wrGfa v) s = .next { s with gfa := v } ∧ exec (.wrGfb v) s = .next { s with gfb := v } ∧
      exec (.wrSbin v) s = .next { s with sbin := v } ∧
      (∃ t, exec (.wrRkidx v) s = .next t ∧ t.rkidx = v.extractLsb' 0 4) ∧
      (∃ t, exec (.wrDin v) s = .next t ∧ t.inCnt.toNat = min 255 (s.inCnt.toNat + 1)))

/-- Only a reset leaves ERROR: until one, every step leaves fsm, ERRCODE, the flags, the counters, OUT, RK and ST; a
reset brings IDLE with no key. -/
def Obligations.OnlyResetLeavesError : Prop :=
  ∀ s t : State, s.fsm = .error → step s = .next t →
    (s.resetNext → t.fsm = .idle ∧ t.errcode = .none ∧ t.keyValid = false) ∧
    (¬ s.resetNext → t.fsm = .error ∧ t.errcode = s.errcode ∧ t.done = s.done ∧ t.keyValid = s.keyValid ∧
      t.rc = s.rc ∧ t.ksidx = s.ksidx ∧ t.out = s.out ∧ t.rk = s.rk ∧ t.st = s.st)

/-! ### Controller steps -/

/-- The key-expansion step, which (KEYEXP, any RC) selects, for word i = KSIDX: byte by byte the new word, every other word as it was, KSIDX one
higher, and after word 43 KEY_VALID and IDLE. CTRL is not stuck (U7). -/
def Obligations.KeyExpansionStepComputesOneWord : Prop :=
  ∀ (rc : BitVec 4) (s : State) (i : Nat) (hi : 4 ≤ i ∧ i < 44), s.ctrlFault = none → s.fsm = .keyexp →
    s.ksidx.toNat = i →
    decode (keyWord s.fsm rc) = .ok (.ctrlKeyexp rc) ∧ ∃ t, exec (.ctrlKeyexp rc) s = .next t ∧
      t = { s with
        rk := t.rk
        ksidx := s.ksidx + 1#6
        keyValid := if i = 43 then true else s.keyValid
        fsm := if i = 43 then .idle else .keyexp } ∧
      (∀ (n : Nat) (hn : n < 44), n ≠ i → t.rk[n] = s.rk[n]) ∧
      (i % 4 ≠ 0 → ∀ (j : Nat) (hj : j < 4), t.rk[i][j] = s.rk[i - 4][j] ^^^ s.rk[i - 1][j]) ∧
      (i % 4 = 0 → ∀ (j : Nat) (hj : j < 4), t.rk[i][j] =
        s.rk[i - 4][j] ^^^ sbox s.sboxRom s.rk[i - 1][(j + 1) % 4] ^^^
          (if j = 0 then rcon ⟨i / 4 - 1, by omega⟩ else 0x00#8))

/-- Whitening, from (LOADED, 0): XOR with round key 0, RC becomes 1. -/
def Obligations.WhiteningStepMixesRoundKeyZero : Prop :=
  ∀ s : State, s.ctrlFault = none → s.fsm = .loaded → s.rc = 0#4 →
    decode (keyWord s.fsm s.rc) = .ok .ctrlWhiten ∧ ∃ t, exec .ctrlWhiten s = .next t ∧
    t = { s with st := t.st, rc := 1#4, fsm := .whitened } ∧
    (∀ (r c : Nat) (hr : r < 4) (hc : c < 4), t.st[r][c] = s.st[r][c] ^^^ s.rk[r][c])

/-- A full round n, from (WHITENED, 1) with n = 1 or from (ROUND, n) with n = 2..9: the four operations in order, byte
by byte, RC one higher. -/
def Obligations.FullRoundStepAppliesTheFourTransforms : Prop :=
  ∀ (i : Instr) (s : State) (n : Nat) (hn : n ≤ 9), s.ctrlFault = none →
    (i = .ctrlFullroundFirst ∧ s.fsm = .whitened ∧ s.rc = 1#4 ∧ n = 1) ∨
    (i = .ctrlFullround s.rc ∧ s.fsm = .round ∧ 2 ≤ n ∧ n = s.rc.toNat) →
    decode (keyWord s.fsm s.rc) = .ok i ∧
    ∃ t, exec i s = .next t ∧ t = { s with st := t.st, rc := s.rc + 1#4, fsm := .round } ∧
      ∀ (g : Nat) (hg : g < 4),
        let u := fun c : Fin 4 => sbox s.sboxRom s.st[(g + c.val) % 4][c]
        let k := s.rk[4 * n + g]
        t.st[g][0] = gfMul 0x02#8 (u 0) ^^^ gfMul 0x03#8 (u 1) ^^^ u 2 ^^^ u 3 ^^^ k[0] ∧
        t.st[g][1] = u 0 ^^^ gfMul 0x02#8 (u 1) ^^^ gfMul 0x03#8 (u 2) ^^^ u 3 ^^^ k[1] ∧
        t.st[g][2] = u 0 ^^^ u 1 ^^^ gfMul 0x02#8 (u 2) ^^^ gfMul 0x03#8 (u 3) ^^^ k[2] ∧
        t.st[g][3] = gfMul 0x03#8 (u 0) ^^^ u 1 ^^^ u 2 ^^^ gfMul 0x02#8 (u 3) ^^^ k[3]

/-- The final round, from (ROUND, 10): SubBytes, ShiftRows, AddRoundKey(10) and no MixColumns; RC becomes 11. -/
def Obligations.FinalRoundStepOmitsMixColumns : Prop :=
  ∀ s : State, s.ctrlFault = none → s.fsm = .round → s.rc = 10#4 →
    decode (keyWord s.fsm s.rc) = .ok .ctrlFinalround ∧ ∃ t, exec .ctrlFinalround s = .next t ∧
    t = { s with st := t.st, rc := 11#4, fsm := .final } ∧
    (∀ (r c : Nat) (hr : r < 4) (hc : c < 4), t.st[r][c] = sbox s.sboxRom s.st[(r + c) % 4][c] ^^^ s.rk[40 + r][c])

/-- Serialize, from (FINAL, 11): OUT[4r+c] is ST[r][c], all bytes at once, DONE is set, RC stays. That ST stays too is the
model's choice (log 14): R38 calls its value between operations unspecified. -/
def Obligations.SerializeStepWritesOut : Prop :=
  ∀ s : State, s.ctrlFault = none → s.fsm = .final → s.rc = 11#4 →
    decode (keyWord s.fsm s.rc) = .ok .ctrlSerialize ∧ ∃ t, exec .ctrlSerialize s = .next t ∧
    t = { s with out := t.out, done := true, fsm := .idle } ∧
    (∀ (r c : Nat) (hr : r < 4) (hc : c < 4), t.out[4 * r + c] = s.st[r][c])

/-- In IDLE and ERROR CTRL has no step: its two rows complete with nothing changed. -/
def Obligations.NoControllerStepInIdleOrError : Prop :=
  ∀ (rc : BitVec 4) (s : State), exec (.ctrlNoneIdle rc) s = .next s ∧ exec (.ctrlNoneError rc) s = .next s ∧
    (s.turns = [] → busy s.fsm = false → step s = .next s)

/-- The pairs (LOADED, RC ≠ 0), (WHITENED, RC ≠ 1), (ROUND, RC ∉ 2..10) and (FINAL, RC ≠ 11) get no meaning: they
decode to CTRL_UNREACHABLE, which records UNREACHABLE_DISPATCH and changes nothing else. From then on CTRL is stuck, each
of its rows changing nothing, and no step takes the record away (that a reset does not is the model's choice, log 11). -/
def Obligations.UnreachableDispatchPairsStopTheController : Prop :=
  (∀ (f : Fsm) (rc : BitVec 4) (s : State),
    (f = .loaded ∧ rc ≠ 0#4) ∨ (f = .whitened ∧ rc ≠ 1#4) ∨ (f = .final ∧ rc ≠ 11#4) ∨
    (f = .round ∧ ¬(2 ≤ rc.toNat ∧ rc.toNat ≤ 10)) →
    decode (keyWord f rc) = .ok (.ctrlUnreachable f rc) ∧
    exec (.ctrlUnreachable f rc) s = .next { s with ctrlFault := some .unreachableDispatch }) ∧
  (∀ (i : Instr) (s : State), s.ctrlFault ≠ none → i.isControllerStep = true → exec i s = .next s) ∧
  (∀ s t : State, s.ctrlFault ≠ none → step s = .next t → t.ctrlFault = s.ctrlFault)

/-- Every state steps: the machine never refuses and never stops. A fault is recorded exactly on the turn of a CTRL that
is not stuck, in a state the rules dispatch no step from (a pair of R160, or KEYEXP with KSIDX outside 4..43, the
model's choice, log 6), and nothing else of the state changes then. -/
def Obligations.OnlyUnreachableDispatchStopsTheController : Prop :=
  ∀ s : State, ∃ t, step s = .next t ∧
    (t.ctrlFault ≠ s.ctrlFault ↔ s.ctrlNext ∧ s.ctrlFault = none ∧
      (isUnreachablePair s.fsm s.rc = true ∨ (s.fsm = .keyexp ∧ ¬(4 ≤ s.ksidx.toNat ∧ s.ksidx.toNat < 44)))) ∧
    (t.ctrlFault ≠ s.ctrlFault → t = { s with turns := s.turns.tail, ctrlFault := some .unreachableDispatch })

/-- A controller step of the encryption writes neither the table, KEY_VALID nor KSIDX, and CTRL touches no register
of HOST's: IN_CNT, IBUF, RKIDX, GFA, GFB, SBIN, ERRCODE, and what HOST has read. -/
def Obligations.ControllerStepsLeaveHostRegisters : Prop :=
  ∀ (i : Instr) (s t : State), i.isControllerStep = true → exec i s = .next t →
    (s.fsm ≠ .keyexp → t.rk = s.rk ∧ t.keyValid = s.keyValid ∧ t.ksidx = s.ksidx) ∧
    t.inCnt = s.inCnt ∧ t.ibuf = s.ibuf ∧ t.rkidx = s.rkidx ∧ t.gfa = s.gfa ∧ t.gfb = s.gfb ∧ t.sbin = s.sbin ∧
    t.errcode = s.errcode ∧ t.sboxRom = s.sboxRom ∧ t.reads = s.reads ∧ t.draws = s.draws ∧ t.turns = s.turns

/-- Register reads, register writes and NOP leave everything the controller runs on: fsm, RC, KSIDX, the flags,
ERRCODE, ST, RK, OUT, the SBox ROM and CTRL's fault. -/
def Obligations.RegisterTransactionsLeaveTheDatapath : Prop :=
  ∀ (w : BitVec 17) (s : State), (Turn.bus w).sparesOperation = true →
    ∃ t, exec (decodeTransaction w) s = .next t ∧
      t.fsm = s.fsm ∧ t.rc = s.rc ∧ t.ksidx = s.ksidx ∧ t.done = s.done ∧ t.keyValid = s.keyValid ∧
      t.errcode = s.errcode ∧ t.st = s.st ∧ t.rk = s.rk ∧ t.out = s.out ∧ t.sboxRom = s.sboxRom ∧
      t.ctrlFault = s.ctrlFault ∧ t.turns = s.turns

/-! ### The multiplier, the ROMs and the round transforms -/

/-- The multiplier's laws, for all bytes: zero, one, commutativity, distributivity over XOR; and the corrected value
0x97 of the source's example (C1). -/
def Obligations.MultiplierLaws : Prop :=
  (∀ a : Byte, gfMul a 0x00#8 = 0x00#8 ∧ gfMul a 0x01#8 = a) ∧
  (∀ a b : Byte, gfMul a b = gfMul b a) ∧
  (∀ a b c : Byte, gfMul a (b ^^^ c) = gfMul a b ^^^ gfMul a c) ∧
  gfMul 0x02#8 0xC6#8 = 0x97#8

/-- Multiplication by 2 and by 3 in closed form. -/
def Obligations.MultiplyByTwoAndThreeClosedForms : Prop :=
  ∀ a : Byte,
    gfMul 0x02#8 a = (a <<< 1) ^^^ (if a.getLsbD 7 then 0x1B#8 else 0x00#8) ∧
    gfMul 0x03#8 a = ((a <<< 1) ^^^ (if a.getLsbD 7 then 0x1B#8 else 0x00#8)) ^^^ a ∧
    gfMul a 0x02#8 = gfMul 0x02#8 a ∧ gfMul a 0x03#8 = gfMul 0x03#8 a

/-- The ten entries of Rcon; it starts at 1 and each entry is 2 times the one before. -/
def Obligations.RconDoubles : Prop :=
  List.ofFn rcon =
    [0x01#8, 0x02#8, 0x04#8, 0x08#8, 0x10#8, 0x20#8, 0x40#8, 0x80#8, 0x1B#8, 0x36#8] ∧
  rcon 0 = 0x01#8 ∧ ∀ (j : Nat) (hj : j + 1 < 10), rcon ⟨j + 1, hj⟩ = gfMul 0x02#8 (rcon ⟨j, by omega⟩)

/-- The SBox values the source fixes, in every table it allows; the default table (log 5) is one of these. -/
def Obligations.SboxHasTheSourceValues : Prop :=
  (∀ table : SboxTable, MeetsSource table →
    sbox table 0x00#8 = 0x63#8 ∧ sbox table 0x03#8 = 0x7B#8 ∧ sbox table 0x45#8 = 0x6E#8 ∧
    sbox table 0xB4#8 = 0x8D#8 ∧ sbox table 0x01#8 = 0x7C#8 ∧ sbox table 0x07#8 = 0xC5#8 ∧
    sbox table 0x0F#8 = 0x76#8 ∧ sbox table 0x1F#8 = 0xC0#8 ∧ sbox table 0x3F#8 = 0x75#8 ∧
    sbox table 0x7F#8 = 0xD2#8) ∧
  MeetsSource defaultSboxTable

/-- The SBox is a ROM: no instruction and no step writes it, so one table serves a whole run. -/
def Obligations.SboxRomIsNeverWritten : Prop :=
  (∀ (i : Instr) (s t : State), exec i s = .next t → t.sboxRom = s.sboxRom) ∧
  (∀ (n : Nat) (s t : State), Host.Core.run Sys2Proof.core n s = .next t → State.sboxRom t = s.sboxRom)

/-- SubBytes, ShiftRows and AddRoundKey are bijections on matrices: SubBytes for every table that is a permutation,
ShiftRows because four of it are the identity, AddRoundKey because it undoes itself. The default table (log 5) is a
permutation with no fixed point. -/
def Obligations.LaneTransformsAreBijective : Prop :=
  (∀ table : SboxTable, (∀ a b : Byte, sbox table a = sbox table b → a = b) →
    (∀ m n : Matrix, subBytes table m = subBytes table n → m = n) ∧ (∀ m : Matrix, ∃ n, subBytes table n = m)) ∧
  (∀ a b : Byte, sbox defaultSboxTable a = sbox defaultSboxTable b → a = b) ∧
  (∀ b : Byte, sbox defaultSboxTable b ≠ b) ∧
  (∀ m : Matrix, shiftRows (shiftRows (shiftRows (shiftRows m))) = m) ∧
  (∀ (m : Matrix) (rk : Schedule) (k : Fin 11), addRoundKey (addRoundKey m rk k) rk k = m)

/-- ShiftRows as a permutation of block offsets. -/
def Obligations.ShiftRowsPermutesOffsets : Prop :=
  let p : Vector (Fin 16) 16 := #v[0, 5, 10, 15, 4, 9, 14, 3, 8, 13, 2, 7, 12, 1, 6, 11]
  (∀ (b : Block) (k : Nat) (hk : k < 16), (toBlock (shiftRows (toMatrix b)))[k] = b[p[k]]) ∧
  (∀ (j k : Nat) (hj : j < 16) (hk : k < 16), p[j] = p[k] → j = k)

/-- MixColumns is linear, and fixes a group of four equal bytes. -/
def Obligations.MixColumnsIsLinearAndFixesConstants : Prop :=
  (∀ m n x : Matrix, (∀ (r c : Nat) (hr : r < 4) (hc : c < 4), x[r][c] = m[r][c] ^^^ n[r][c]) →
    ∀ (r c : Nat) (hr : r < 4) (hc : c < 4),
      (mixColumns x)[r][c] = (mixColumns m)[r][c] ^^^ (mixColumns n)[r][c]) ∧
  (∀ (m : Matrix) (g : Nat) (hg : g < 4) (x : Byte), m[g] = #v[x, x, x, x] → (mixColumns m)[g] = #v[x, x, x, x])

/-- KeyExpand: words 0..3 are the key's rows, and every later word is the XOR of the word four before with temp, which
every fourth word is rotated, substituted and has Rcon in byte 0. -/
def Obligations.KeyExpandMeetsItsRecurrence : Prop :=
  ∀ (table : SboxTable) (key : Block),
    (∀ (i j : Nat) (hi : i < 4) (hj : j < 4), (keyExpand table key)[i][j] = key[4 * i + j]) ∧
    ∀ (i j : Nat) (hi : 4 ≤ i ∧ i < 44) (hj : j < 4), (keyExpand table key)[i][j] =
      (keyExpand table key)[i - 4][j] ^^^
        (if i % 4 = 0 then
          sbox table (keyExpand table key)[i - 1][(j + 1) % 4] ^^^ (if j = 0 then rcon ⟨i / 4 - 1, by omega⟩ else 0x00#8)
        else (keyExpand table key)[i - 1][j])

/-! ### The invariant and whole-machine rules -/

/-- The state right after reset meets the invariant, with the default table (log 5) and with any other table that the
source allows (R9). -/
def Obligations.ResetMeetsTheInvariant : Prop :=
  State.reset.Inv ∧ ∀ table : SboxTable, MeetsSource table → State.Inv { State.reset with sboxRom := table }

/-- Every step keeps the invariant of R42, from every state that meets it. -/
def Obligations.EveryStepKeepsTheInvariant : Prop :=
  ∀ s t : State, s.Inv → step s = .next t → t.Inv

/-- A state that meets the invariant steps and records no fault, whatever turn comes next. -/
def Obligations.InvariantStatesAlwaysStep : Prop :=
  ∀ s : State, s.Inv → ∃ t, step s = .next t ∧ t.ctrlFault = none

/-- Whatever turns HOST, the reset input and CTRL take, and whatever table the source allows the ROM holds, no run from
reset meets an unreachable dispatch pair, and the invariant holds all along. -/
def Obligations.NoRunFromResetStops : Prop :=
  ∀ (table : SboxTable) (turns : List Turn) (n : Nat), MeetsSource table → ∃ t,
    Host.Core.run Sys2Proof.core n { State.reset with sboxRom := table, turns := turns } = .next t ∧
    State.Inv t ∧ State.ctrlFault t = none

/-- While a key is valid the table does not change: a step from a valid key to a valid key keeps every word. -/
def Obligations.RoundKeyTableIsImmutableWhileValid : Prop :=
  ∀ s t : State, s.Inv → step s = .next t → s.keyValid = true → t.keyValid = true → t.rk = s.rk

/-- OUT is written only by the serialize step, which copies ST, and by a reset, which clears it. -/
def Obligations.OutIsWrittenOnlyBySerializeAndReset : Prop :=
  ∀ s t : State, step s = .next t → t.out ≠ s.out →
    (s.ctrlNext ∧ s.fsm = .final ∧ s.rc = 11#4 ∧ t.done = true ∧ t.out = toBlock s.st) ∨
    (s.resetNext ∧ ∀ (k : Nat) (hk : k < 16), t.out[k] = 0x00#8)

/-- KEY_VALID is set only by the last expansion step and cleared only by an accepted LOAD_KEY or a reset; DONE is set
only by the serialize step and cleared only by an accepted ENCRYPT or a reset. -/
def Obligations.FlagsAreWrittenOnlyByTheirSteps : Prop :=
  ∀ s t : State, step s = .next t →
    (s.keyValid = false → t.keyValid = true → s.ctrlNext ∧ s.fsm = .keyexp ∧ s.ksidx = 43#6 ∧ t.fsm = .idle) ∧
    (s.keyValid = true → t.keyValid = false →
      s.resetNext ∨ (s.fsm = .idle ∧ t.fsm = .keyexp ∧ ∃ ts, s.turns = .bus 0x10001#17 :: ts)) ∧
    (s.done = false → t.done = true → s.ctrlNext ∧ s.fsm = .final ∧ s.rc = 11#4 ∧ t.fsm = .idle) ∧
    (s.done = true → t.done = false →
      s.resetNext ∨ (s.fsm = .idle ∧ t.fsm = .loaded ∧ ∃ ts, s.turns = .bus 0x10002#17 :: ts))

/-- A step changes nothing at all exactly when no transaction is left and CTRL has no step: it is quiescent, or stuck
(U7). Where CTRL is not stuck that is the end of the run. -/
def Obligations.StepIsStillExactlyWhenTheRunHasEnded : Prop :=
  ∀ s : State, (step s = .next s ↔ s.turns = [] ∧ (busy s.fsm = false ∨ s.ctrlFault ≠ none)) ∧
    (s.ctrlFault = none → (step s = .next s ↔ s.ended))

/-- Left alone, CTRL finishes what runs: within 40 steps the block is no longer BUSY. -/
def Obligations.ControllerAloneFinishesWithinFortySteps : Prop :=
  ∀ s : State, s.Inv → s.turns = [] → ∃ n t, n ≤ 40 ∧ Host.Core.run Sys2Proof.core n s = .next t ∧
    State.ended t ∧ (s.fsm ≠ .error → State.succeeded t)

/-- LOAD_KEY, whatever HOST does meanwhile short of a command or a reset: once CTRL has had at least 40 turns, the
table is KeyExpand of the 16 bytes that IBUF held at acceptance. CTRL is not stuck (U7). -/
def Obligations.LoadKeyComputesTheKeyExpansion : Prop :=
  ∀ s : State, s.ctrlFault = none → s.fsm = .idle → s.inCnt = 16#8 →
    (∀ x ∈ s.turns, x = .ctrl ∨ x.sparesOperation = true) → 40 ≤ s.turns.count .ctrl →
    ∃ t u, exec .cmdLoadKey s = .next t ∧ Host.Core.run Sys2Proof.core s.turns.length t = .next u ∧
      State.succeeded u ∧ u.keyValid = true ∧ u.ksidx = 44#6 ∧ u.rk = keyExpand s.sboxRom s.ibuf ∧
      u.done = s.done ∧ u.out = s.out

/-- ENCRYPT, whatever HOST does meanwhile short of a command or a reset: once CTRL has had at least 12 turns, OUT is
Encrypt of the block that IBUF held at acceptance, under the table as it was, and DONE is set. CTRL is not stuck (U7). -/
def Obligations.EncryptComputesTheCiphertext : Prop :=
  ∀ s : State, s.ctrlFault = none → s.fsm = .idle → s.inCnt = 16#8 → s.keyValid = true →
    (∀ x ∈ s.turns, x = .ctrl ∨ x.sparesOperation = true) → 12 ≤ s.turns.count .ctrl →
    ∃ t u, exec .cmdEncrypt s = .next t ∧ Host.Core.run Sys2Proof.core s.turns.length t = .next u ∧
      State.succeeded u ∧ u.done = true ∧ u.rc = 11#4 ∧ u.out = encryptBlock s.sboxRom s.rk s.ibuf ∧
      u.rk = s.rk ∧ u.keyValid = true

/-- An encryption needs at least 12 controller turns: fewer leave it unfinished, with OUT as before. (That 12 suffice
is EncryptComputesTheCiphertext.) CTRL is not stuck (U7). -/
def Obligations.EncryptNeedsTwelveControllerSteps : Prop :=
  ∀ s : State, s.ctrlFault = none → s.fsm = .idle → s.inCnt = 16#8 → s.keyValid = true →
    (∀ x ∈ s.turns, x = .ctrl ∨ x.sparesOperation = true) → s.turns.count .ctrl < 12 →
    ∃ t u, exec .cmdEncrypt s = .next t ∧ Host.Core.run Sys2Proof.core s.turns.length t = .next u ∧
      busy u.fsm = true ∧ u.done = false ∧ u.out = s.out ∧ u.rc.toNat = s.turns.count .ctrl

/-- encryptBlock is R158's function: rounds of the four transforms between a whitening and a final round. -/
def Obligations.EncryptBlockIsTheRoundPipeline : Prop :=
  ∀ (table : SboxTable) (w : Schedule) (p : Block), ∃ x : Nat → Matrix,
    x 0 = addRoundKey (toMatrix p) w 0 ∧
    (∀ (i : Nat) (hi : 1 ≤ i ∧ i ≤ 9),
      x i = addRoundKey (mixColumns (shiftRows (subBytes table (x (i - 1))))) w ⟨i, by omega⟩) ∧
    x 10 = addRoundKey (shiftRows (subBytes table (x 9))) w 10 ∧
    ∀ (r c : Nat) (hr : r < 4) (hc : c < 4), (encryptBlock table w p)[4 * r + c] = (x 10)[r][c]
end

