-- ==== Sys2Proof/Laws/Encoding.lean ====
section
/-! SUPPORT. Fields of the two encoded forms survive the layout in bytes, and every form decodes as its fields say. -/

namespace Sys2Proof

open Machine

/-- A transaction word in bytes decodes as the word. -/
theorem decode_transactionBytes (w : BitVec 17) : decode (transactionBytes w) = .ok (decodeTransaction w) := by
  have h1 : ¬ (0x01#8 < (w.extractLsb' 16 1).zeroExtend 8) := by
    generalize w.extractLsb' 16 1 = x
    revert x; decide
  have h2 : ((((w.extractLsb' 16 1).zeroExtend 8).extractLsb' 0 1) ++ w.extractLsb' 8 8) ++ w.extractLsb' 0 8 = w := by
    apply BitVec.eq_of_getLsbD_eq
    intro i hi
    simp only [BitVec.getLsbD_append, BitVec.getLsbD_extractLsb', BitVec.truncate_eq_setWidth, BitVec.getLsbD_setWidth]
    rcases (by omega : i < 8 ∨ (8 ≤ i ∧ i < 16) ∨ i = 16) with h | h | h
    · simp [h]
    · simp [show ¬ i < 8 by omega, show i - 8 < 8 by omega, show 8 + (i - 8) = i by omega]
    · subst h; simp
  simp only [decode, transactionBytes, h1, ↓reduceIte, h2]

@[simp] theorem transactionWord_addr (w : Bool) (a d : Byte) : (transactionWord w a d).extractLsb' 8 8 = a := by
  apply BitVec.eq_of_getLsbD_eq
  intro i hi
  simp only [transactionWord, BitVec.getLsbD_append, BitVec.getLsbD_extractLsb']
  simp [hi]

@[simp] theorem transactionWord_data (w : Bool) (a d : Byte) : (transactionWord w a d).extractLsb' 0 8 = d := by
  apply BitVec.eq_of_getLsbD_eq
  intro i hi
  simp only [transactionWord, BitVec.getLsbD_append, BitVec.getLsbD_extractLsb']
  simp [hi]

@[simp] theorem transactionWord_rw (w : Bool) (a d : Byte) :
    (transactionWord w a d).extractLsb' 16 1 = BitVec.ofBool w := by
  apply BitVec.eq_of_getLsbD_eq
  intro i hi
  have : i = 0 := by omega
  subst this
  simp only [transactionWord, BitVec.getLsbD_append, BitVec.getLsbD_extractLsb']
  simp

/-- A read word decodes by its address (R76). -/
@[simp] theorem decode_readWord (a d : Byte) : decode (readWord a d) = .ok (decodeRead a d) := by
  simp [readWord, decode_transactionBytes, decodeTransaction]

/-- A write word decodes by its address (R76). -/
@[simp] theorem decode_writeWord (a d : Byte) : decode (writeWord a d) = .ok (decodeWrite a d) := by
  simp [writeWord, decode_transactionBytes, decodeTransaction]

/-- A dispatch key decodes by its pair (R77). -/
@[simp] theorem decode_keyWord (f : Fsm) (rc : BitVec 4) : decode (keyWord f rc) = .ok (decodeDispatch f rc) := by
  cases f <;> (revert rc; decide)

/-! ### The rows, one by one -/

/-- A property of both branches holds of the choice. -/
theorem ite_elim {α : Type} {P : α → Prop} {c : Prop} [Decidable c] {x y : α} (hx : c → P x) (hy : ¬ c → P y) :
    P (if c then x else y) := by
  split
  · exact hx ‹_›
  · exact hy ‹_›

/-- An address is its two digits. -/
theorem addr_of_high (a : Byte) (x : BitVec 4) (h : a.extractLsb' 4 4 = x) : a = x ++ a.extractLsb' 0 4 := by
  subst h; revert a; decide

/-- An address that is none of 0x00..0x0D, OUT or RKWIN is reserved (R55). -/
theorem reserved_of_unlisted (a : Byte) : a.toNat < 14 ∨ a.extractLsb' 4 4 = 1#4 ∨ a.extractLsb' 4 4 = 2#4 ∨
    isReservedAddr a = true := by revert a; decide

/-- A reserved address is none of the others (R55). -/
theorem unlisted_of_reserved (a : Byte) (h : isReservedAddr a = true) :
    14 ≤ a.toNat ∧ a.extractLsb' 4 4 ≠ 1#4 ∧ a.extractLsb' 4 4 ≠ 2#4 := by revert a; decide

/-- What is true of every row of R76's read column is true of a decoded read. -/
theorem decodeRead_elim {P : Instr → Prop} (a d : Byte)
    (h0 : a = 0x00#8 → P (.rdCmd d))
    (h1 : a = 0x01#8 → P (.rdStatus d))
    (h2 : a = 0x02#8 → P (.rdErrcode d))
    (h3 : a = 0x03#8 → P (.rdDin d))
    (h4 : a = 0x04#8 → P (.rdInCnt d))
    (h5 : a = 0x05#8 → P (.rdFsm d))
    (h6 : a = 0x06#8 → P (.rdRoundcnt d))
    (h7 : a = 0x07#8 → P (.rdKsidx d))
    (h8 : a = 0x08#8 → P (.rdRkidx d))
    (h9 : a = 0x09#8 → P (.rdGfa d))
    (h10 : a = 0x0A#8 → P (.rdGfb d))
    (h11 : a = 0x0B#8 → P (.rdGfp d))
    (h12 : a = 0x0C#8 → P (.rdSbin d))
    (h13 : a = 0x0D#8 → P (.rdSbout d))
    (hout : ∀ k, a = 1#4 ++ k → P (.rdOut k d))
    (hrk : ∀ k, a = 2#4 ++ k → P (.rdRkwin k d))
    (hres : isReservedAddr a = true → P (.rdReserved a d)) : P (decodeRead a d) := by
  unfold decodeRead
  refine ite_elim h0 fun n0 => ?_
  refine ite_elim h1 fun n1 => ?_
  refine ite_elim h2 fun n2 => ?_
  refine ite_elim h3 fun n3 => ?_
  refine ite_elim h4 fun n4 => ?_
  refine ite_elim h5 fun n5 => ?_
  refine ite_elim h6 fun n6 => ?_
  refine ite_elim h7 fun n7 => ?_
  refine ite_elim h8 fun n8 => ?_
  refine ite_elim h9 fun n9 => ?_
  refine ite_elim h10 fun n10 => ?_
  refine ite_elim h11 fun n11 => ?_
  refine ite_elim h12 fun n12 => ?_
  refine ite_elim h13 fun n13 => ?_
  refine ite_elim (fun e => hout _ (addr_of_high a _ e)) fun n14 => ?_
  refine ite_elim (fun e => hrk _ (addr_of_high a _ e)) fun n15 => ?_
  refine hres ?_
  rcases reserved_of_unlisted a with h | h | h | h
  · simp only [← BitVec.toNat_inj, BitVec.toNat_ofNat, Nat.reducePow, Nat.reduceMod] at n0 n1 n2 n3 n4 n5 n6 n7 n8 n9 n10 n11 n12 n13
    omega
  · exact absurd h n14
  · exact absurd h n15
  · exact h

/-- A decoded read reads its address (R76). -/
theorem decodeRead_readsFrom (a d : Byte) : (decodeRead a d).readsFrom = some a := by
  apply decodeRead_elim (P := fun i => i.readsFrom = some a) a d <;> intros <;> simp [Instr.readsFrom, *]

/-- A decoded read is well formed. -/
theorem decodeRead_wf (a d : Byte) : (decodeRead a d).wf = true := by
  apply decodeRead_elim (P := fun i => i.wf = true) a d <;> intros <;> first | rfl | assumption

/-- A decoded write reads nothing and is no controller step (R76). -/
theorem decodeWrite_kind (a v : Byte) :
    (decodeWrite a v).readsFrom = none ∧ (decodeWrite a v).isControllerStep = false := by
  unfold decodeWrite decodeCommand
  split_ifs <;> exact ⟨rfl, rfl⟩

/-- The address of an ignored write decodes to WR_IGNORED (R189). -/
theorem decodeWrite_ignored (a v : Byte) (h : isWriteIgnoredAddr a = true) : decodeWrite a v = .wrIgnored a v := by
  have h' : a ≠ 0x00#8 ∧ a ≠ 0x03#8 ∧ a ≠ 0x08#8 ∧ a ≠ 0x09#8 ∧ a ≠ 0x0A#8 ∧ a ≠ 0x0C#8 := by
    revert a; decide
  simp [decodeWrite, h']

/-- A decoded write is well formed. -/
theorem decodeWrite_wf (a v : Byte) : (decodeWrite a v).wf = true := by
  by_cases ha : a = 0x00#8
  · subst ha
    simp only [decodeWrite, ↓reduceIte]
    unfold decodeCommand
    split_ifs <;> simp_all [Instr.wf, isCommandByte]
  · have key : a = 0x00#8 ∨ a = 0x03#8 ∨ a = 0x08#8 ∨ a = 0x09#8 ∨ a = 0x0A#8 ∨ a = 0x0C#8 ∨
        isWriteIgnoredAddr a = true := by revert a; decide
    rcases key with h | h | h | h | h | h | h
    · exact absurd h ha
    iterate 5 (subst h; rfl)
    rw [decodeWrite_ignored a v h]; exact h

/-- A bus word's instruction is no controller step (R70). -/
theorem decodeTransaction_not_controller (w : BitVec 17) : (decodeTransaction w).isControllerStep = false := by
  unfold decodeTransaction
  refine ite_elim (P := fun i : Instr => i.isControllerStep = false) (fun _ => (decodeWrite_kind _ _).2) fun _ => ?_
  apply decodeRead_elim (P := fun i => i.isControllerStep = false) <;> intros <;> rfl

/-- A dispatched instruction is a controller step (R77). -/
theorem decodeDispatch_controller (f : Fsm) (rc : BitVec 4) : (decodeDispatch f rc).isControllerStep = true := by
  unfold decodeDispatch
  split <;> (try split_ifs) <;> rfl

/-- The unreachable pairs are the ones that dispatch to CTRL_UNREACHABLE (R160). -/
theorem decodeDispatch_unreachable_iff (f : Fsm) (rc : BitVec 4) :
    decodeDispatch f rc = .ctrlUnreachable f rc ↔ isUnreachablePair f rc = true := by
  cases f <;> (revert rc; decide)

/-! ### The ranges of addresses -/

/-- The digits of an OUT address, which is no other address (R34). -/
theorem outAddr_digits : ∀ k : BitVec 4, (1#4 ++ k : Byte).extractLsb' 4 4 = 1#4 ∧
    (1#4 ++ k : Byte).extractLsb' 0 4 = k ∧ 14 ≤ (1#4 ++ k : Byte).toNat := by decide

/-- The digits of an RKWIN address, which is no other address (R35). -/
theorem rkwinAddr_digits : ∀ k : BitVec 4, (2#4 ++ k : Byte).extractLsb' 4 4 = 2#4 ∧
    (2#4 ++ k : Byte).extractLsb' 0 4 = k ∧ 14 ≤ (2#4 ++ k : Byte).toNat := by decide

/-- An address from 14 on is none of the single registers. -/
theorem single_addr_ne (a : Byte) (h : 14 ≤ a.toNat) :
    a ≠ 0x00#8 ∧ a ≠ 0x01#8 ∧ a ≠ 0x02#8 ∧ a ≠ 0x03#8 ∧ a ≠ 0x04#8 ∧ a ≠ 0x05#8 ∧ a ≠ 0x06#8 ∧ a ≠ 0x07#8 ∧
    a ≠ 0x08#8 ∧ a ≠ 0x09#8 ∧ a ≠ 0x0A#8 ∧ a ≠ 0x0B#8 ∧ a ≠ 0x0C#8 ∧ a ≠ 0x0D#8 := by revert a; decide

/-- Past the single registers a read decodes by its first digit (R76). -/
theorem decodeRead_high (a d : Byte) (h : 14 ≤ a.toNat) : decodeRead a d =
    if a.extractLsb' 4 4 = 1#4 then .rdOut (a.extractLsb' 0 4) d
    else if a.extractLsb' 4 4 = 2#4 then .rdRkwin (a.extractLsb' 0 4) d
    else .rdReserved a d := by
  simp only [decodeRead, single_addr_ne a h, ↓reduceIte]

theorem decodeRead_out (k : BitVec 4) (d : Byte) : decodeRead (1#4 ++ k) d = .rdOut k d := by
  obtain ⟨h1, h2, h3⟩ := outAddr_digits k
  rw [decodeRead_high _ _ h3, if_pos h1, h2]

theorem decodeRead_rkwin (k : BitVec 4) (d : Byte) : decodeRead (2#4 ++ k) d = .rdRkwin k d := by
  obtain ⟨h1, h2, h3⟩ := rkwinAddr_digits k
  rw [decodeRead_high _ _ h3, if_neg (by rw [h1]; decide), if_pos h1, h2]

theorem decodeRead_reserved (a d : Byte) (h : isReservedAddr a = true) : decodeRead a d = .rdReserved a d := by
  obtain ⟨h1, h2, h3⟩ := unlisted_of_reserved a h
  rw [decodeRead_high _ _ h1, if_neg h2, if_neg h3]

/-- The register table past the single registers (R76). -/
theorem registerValue_high (a : Byte) (s : State) (h : 14 ≤ a.toNat) : registerValue a s =
    if a.extractLsb' 4 4 = 1#4 then some (outByte s (a.extractLsb' 0 4))
    else if a.extractLsb' 4 4 = 2#4 then rkwinByte s (a.extractLsb' 0 4)
    else some 0x00#8 := by
  simp only [registerValue, single_addr_ne a h, ↓reduceIte]

theorem registerValue_out (k : BitVec 4) (s : State) : registerValue (1#4 ++ k) s = some (outByte s k) := by
  obtain ⟨h1, h2, h3⟩ := outAddr_digits k
  rw [registerValue_high _ _ h3, if_pos h1, h2]

theorem registerValue_rkwin (k : BitVec 4) (s : State) : registerValue (2#4 ++ k) s = rkwinByte s k := by
  obtain ⟨h1, h2, h3⟩ := rkwinAddr_digits k
  rw [registerValue_high _ _ h3, if_neg (by rw [h1]; decide), if_pos h1, h2]

theorem registerValue_reserved (a : Byte) (s : State) (h : isReservedAddr a = true) :
    registerValue a s = some 0x00#8 := by
  obtain ⟨h1, h2, h3⟩ := unlisted_of_reserved a h
  rw [registerValue_high _ _ h1, if_neg h2, if_neg h3]

end Sys2Proof
end

