-- ==== Sys2Proof/Laws/State.lean ====
section
/-! SUPPORT. The fields after each shared update of State, one lemma a field, so that no proof unfolds an update. -/

namespace Sys2Proof.Machine

/-! ### Error entry -/

@[simp] theorem raise_fsm (e : ErrCode) (s : State) : (raise e s).fsm = .error := rfl
@[simp] theorem raise_done (e : ErrCode) (s : State) : (raise e s).done = s.done := rfl
@[simp] theorem raise_keyValid (e : ErrCode) (s : State) : (raise e s).keyValid = s.keyValid := rfl
@[simp] theorem raise_errcode (e : ErrCode) (s : State) : (raise e s).errcode = e := rfl
@[simp] theorem raise_inCnt (e : ErrCode) (s : State) : (raise e s).inCnt = s.inCnt := rfl
@[simp] theorem raise_rc (e : ErrCode) (s : State) : (raise e s).rc = s.rc := rfl
@[simp] theorem raise_ksidx (e : ErrCode) (s : State) : (raise e s).ksidx = s.ksidx := rfl
@[simp] theorem raise_rkidx (e : ErrCode) (s : State) : (raise e s).rkidx = s.rkidx := rfl
@[simp] theorem raise_gfa (e : ErrCode) (s : State) : (raise e s).gfa = s.gfa := rfl
@[simp] theorem raise_gfb (e : ErrCode) (s : State) : (raise e s).gfb = s.gfb := rfl
@[simp] theorem raise_sbin (e : ErrCode) (s : State) : (raise e s).sbin = s.sbin := rfl
@[simp] theorem raise_out (e : ErrCode) (s : State) : (raise e s).out = s.out := rfl
@[simp] theorem raise_ibuf (e : ErrCode) (s : State) : (raise e s).ibuf = s.ibuf := rfl
@[simp] theorem raise_rk (e : ErrCode) (s : State) : (raise e s).rk = s.rk := rfl
@[simp] theorem raise_st (e : ErrCode) (s : State) : (raise e s).st = s.st := rfl
@[simp] theorem raise_turns (e : ErrCode) (s : State) : (raise e s).turns = s.turns := rfl
@[simp] theorem raise_reads (e : ErrCode) (s : State) : (raise e s).reads = s.reads := rfl
@[simp] theorem raise_draws (e : ErrCode) (s : State) : (raise e s).draws = s.draws := rfl
@[simp] theorem raise_sboxRom (e : ErrCode) (s : State) : (raise e s).sboxRom = s.sboxRom := rfl
@[simp] theorem raise_ctrlFault (e : ErrCode) (s : State) : (raise e s).ctrlFault = s.ctrlFault := rfl

/-! ### The answer to a read -/

@[simp] theorem respond_fsm (v : Byte) (s : State) : (respond v s).fsm = s.fsm := rfl
@[simp] theorem respond_done (v : Byte) (s : State) : (respond v s).done = s.done := rfl
@[simp] theorem respond_keyValid (v : Byte) (s : State) : (respond v s).keyValid = s.keyValid := rfl
@[simp] theorem respond_errcode (v : Byte) (s : State) : (respond v s).errcode = s.errcode := rfl
@[simp] theorem respond_inCnt (v : Byte) (s : State) : (respond v s).inCnt = s.inCnt := rfl
@[simp] theorem respond_rc (v : Byte) (s : State) : (respond v s).rc = s.rc := rfl
@[simp] theorem respond_ksidx (v : Byte) (s : State) : (respond v s).ksidx = s.ksidx := rfl
@[simp] theorem respond_rkidx (v : Byte) (s : State) : (respond v s).rkidx = s.rkidx := rfl
@[simp] theorem respond_gfa (v : Byte) (s : State) : (respond v s).gfa = s.gfa := rfl
@[simp] theorem respond_gfb (v : Byte) (s : State) : (respond v s).gfb = s.gfb := rfl
@[simp] theorem respond_sbin (v : Byte) (s : State) : (respond v s).sbin = s.sbin := rfl
@[simp] theorem respond_out (v : Byte) (s : State) : (respond v s).out = s.out := rfl
@[simp] theorem respond_ibuf (v : Byte) (s : State) : (respond v s).ibuf = s.ibuf := rfl
@[simp] theorem respond_rk (v : Byte) (s : State) : (respond v s).rk = s.rk := rfl
@[simp] theorem respond_st (v : Byte) (s : State) : (respond v s).st = s.st := rfl
@[simp] theorem respond_turns (v : Byte) (s : State) : (respond v s).turns = s.turns := rfl
@[simp] theorem respond_reads (v : Byte) (s : State) : (respond v s).reads = v :: s.reads := rfl
@[simp] theorem respond_draws (v : Byte) (s : State) : (respond v s).draws = s.draws := rfl
@[simp] theorem respond_sboxRom (v : Byte) (s : State) : (respond v s).sboxRom = s.sboxRom := rfl
@[simp] theorem respond_ctrlFault (v : Byte) (s : State) : (respond v s).ctrlFault = s.ctrlFault := rfl

/-! ### A drawn answer -/

@[simp] theorem respondDraw_fsm (s : State) : (respondDraw s).fsm = s.fsm := rfl
@[simp] theorem respondDraw_done (s : State) : (respondDraw s).done = s.done := rfl
@[simp] theorem respondDraw_keyValid (s : State) : (respondDraw s).keyValid = s.keyValid := rfl
@[simp] theorem respondDraw_errcode (s : State) : (respondDraw s).errcode = s.errcode := rfl
@[simp] theorem respondDraw_inCnt (s : State) : (respondDraw s).inCnt = s.inCnt := rfl
@[simp] theorem respondDraw_rc (s : State) : (respondDraw s).rc = s.rc := rfl
@[simp] theorem respondDraw_ksidx (s : State) : (respondDraw s).ksidx = s.ksidx := rfl
@[simp] theorem respondDraw_rkidx (s : State) : (respondDraw s).rkidx = s.rkidx := rfl
@[simp] theorem respondDraw_gfa (s : State) : (respondDraw s).gfa = s.gfa := rfl
@[simp] theorem respondDraw_gfb (s : State) : (respondDraw s).gfb = s.gfb := rfl
@[simp] theorem respondDraw_sbin (s : State) : (respondDraw s).sbin = s.sbin := rfl
@[simp] theorem respondDraw_out (s : State) : (respondDraw s).out = s.out := rfl
@[simp] theorem respondDraw_ibuf (s : State) : (respondDraw s).ibuf = s.ibuf := rfl
@[simp] theorem respondDraw_rk (s : State) : (respondDraw s).rk = s.rk := rfl
@[simp] theorem respondDraw_st (s : State) : (respondDraw s).st = s.st := rfl
@[simp] theorem respondDraw_turns (s : State) : (respondDraw s).turns = s.turns := rfl
@[simp] theorem respondDraw_reads (s : State) : (respondDraw s).reads = Config.freeByte s.draws :: s.reads := rfl
@[simp] theorem respondDraw_draws (s : State) : (respondDraw s).draws = s.draws + 1 := rfl
@[simp] theorem respondDraw_sboxRom (s : State) : (respondDraw s).sboxRom = s.sboxRom := rfl
@[simp] theorem respondDraw_ctrlFault (s : State) : (respondDraw s).ctrlFault = s.ctrlFault := rfl

/-! ### A recorded fault -/

@[simp] theorem recordFault_fsm (e : Fault) (s : State) : (recordFault e s).fsm = s.fsm := rfl
@[simp] theorem recordFault_done (e : Fault) (s : State) : (recordFault e s).done = s.done := rfl
@[simp] theorem recordFault_keyValid (e : Fault) (s : State) : (recordFault e s).keyValid = s.keyValid := rfl
@[simp] theorem recordFault_errcode (e : Fault) (s : State) : (recordFault e s).errcode = s.errcode := rfl
@[simp] theorem recordFault_inCnt (e : Fault) (s : State) : (recordFault e s).inCnt = s.inCnt := rfl
@[simp] theorem recordFault_rc (e : Fault) (s : State) : (recordFault e s).rc = s.rc := rfl
@[simp] theorem recordFault_ksidx (e : Fault) (s : State) : (recordFault e s).ksidx = s.ksidx := rfl
@[simp] theorem recordFault_rkidx (e : Fault) (s : State) : (recordFault e s).rkidx = s.rkidx := rfl
@[simp] theorem recordFault_gfa (e : Fault) (s : State) : (recordFault e s).gfa = s.gfa := rfl
@[simp] theorem recordFault_gfb (e : Fault) (s : State) : (recordFault e s).gfb = s.gfb := rfl
@[simp] theorem recordFault_sbin (e : Fault) (s : State) : (recordFault e s).sbin = s.sbin := rfl
@[simp] theorem recordFault_out (e : Fault) (s : State) : (recordFault e s).out = s.out := rfl
@[simp] theorem recordFault_ibuf (e : Fault) (s : State) : (recordFault e s).ibuf = s.ibuf := rfl
@[simp] theorem recordFault_rk (e : Fault) (s : State) : (recordFault e s).rk = s.rk := rfl
@[simp] theorem recordFault_st (e : Fault) (s : State) : (recordFault e s).st = s.st := rfl
@[simp] theorem recordFault_sboxRom (e : Fault) (s : State) : (recordFault e s).sboxRom = s.sboxRom := rfl
@[simp] theorem recordFault_turns (e : Fault) (s : State) : (recordFault e s).turns = s.turns := rfl
@[simp] theorem recordFault_reads (e : Fault) (s : State) : (recordFault e s).reads = s.reads := rfl
@[simp] theorem recordFault_draws (e : Fault) (s : State) : (recordFault e s).draws = s.draws := rfl
@[simp] theorem recordFault_ctrlFault (e : Fault) (s : State) : (recordFault e s).ctrlFault = some e := rfl

/-! ### Reset -/

@[simp] theorem applyReset_fsm (s : State) : (applyReset s).fsm = .idle := rfl
@[simp] theorem applyReset_done (s : State) : (applyReset s).done = false := rfl
@[simp] theorem applyReset_keyValid (s : State) : (applyReset s).keyValid = false := rfl
@[simp] theorem applyReset_errcode (s : State) : (applyReset s).errcode = .none := rfl
@[simp] theorem applyReset_inCnt (s : State) : (applyReset s).inCnt = 0x00#8 := rfl
@[simp] theorem applyReset_rc (s : State) : (applyReset s).rc = 0#4 := rfl
@[simp] theorem applyReset_ksidx (s : State) : (applyReset s).ksidx = 0#6 := rfl
@[simp] theorem applyReset_rkidx (s : State) : (applyReset s).rkidx = 0#4 := rfl
@[simp] theorem applyReset_gfa (s : State) : (applyReset s).gfa = 0x00#8 := rfl
@[simp] theorem applyReset_gfb (s : State) : (applyReset s).gfb = 0x00#8 := rfl
@[simp] theorem applyReset_sbin (s : State) : (applyReset s).sbin = 0x00#8 := rfl
@[simp] theorem applyReset_out (s : State) : (applyReset s).out = Vector.ofFn fun _ => 0x00#8 := rfl
@[simp] theorem applyReset_ibuf (s : State) : (applyReset s).ibuf = Vector.ofFn fun k => Config.freeByte (s.draws + k) := rfl
@[simp] theorem applyReset_rk (s : State) : (applyReset s).rk = Vector.ofFn fun i => Vector.ofFn fun j => Config.freeByte (s.draws + 16 + 4 * i + j) := rfl
@[simp] theorem applyReset_st (s : State) : (applyReset s).st = Vector.ofFn fun r => Vector.ofFn fun c => Config.freeByte (s.draws + 192 + 4 * r + c) := rfl
@[simp] theorem applyReset_turns (s : State) : (applyReset s).turns = s.turns := rfl
@[simp] theorem applyReset_reads (s : State) : (applyReset s).reads = s.reads := rfl
@[simp] theorem applyReset_draws (s : State) : (applyReset s).draws = s.draws + 208 := rfl
@[simp] theorem applyReset_sboxRom (s : State) : (applyReset s).sboxRom = s.sboxRom := rfl
@[simp] theorem applyReset_ctrlFault (s : State) : (applyReset s).ctrlFault = s.ctrlFault := rfl

/-- `State.reset` is what the reset effect leaves of any state before it has drawn anything, the SBox ROM and
the model's own fields aside. -/
theorem applyReset_eq_reset (s : State) (h : s.draws = 0) :
    { applyReset s with sboxRom := defaultSboxTable, ctrlFault := none, turns := [], reads := [] } = State.reset := by
  simp [applyReset, State.reset, h]

end Sys2Proof.Machine
end

