-- ==== Sys2Proof/Laws/Ops.lean ====
section
/-! SUPPORT. One lemma for each shared operation that says everything it can do. -/

namespace Sys2Proof.Machine

/-! ### Layout -/

@[simp] theorem toMatrix_getElem (b : Block) (r c : Nat) (hr : r < 4) (hc : c < 4) :
    (toMatrix b)[r][c] = b[4 * r + c] := by simp [toMatrix]

@[simp] theorem toBlock_getElem (m : Matrix) (k : Nat) (hk : k < 16) :
    (toBlock m)[k] = m[k / 4][k % 4] := by simp [toBlock]

@[simp] theorem wordXor_getElem (a b : Word) (j : Nat) (hj : j < 4) : (wordXor a b)[j] = a[j] ^^^ b[j] := by
  simp [wordXor]

/-- Two matrices with the same bytes are equal. -/
theorem Matrix.ext_bytes {m n : Matrix} (h : ∀ (r c : Nat) (hr : r < 4) (hc : c < 4), m[r][c] = n[r][c]) : m = n :=
  Vector.ext fun r hr => Vector.ext fun c hc => h r c hr hc

/-- Storing and loading are inverse (R12). -/
theorem toMatrix_toBlock (m : Matrix) : toMatrix (toBlock m) = m := by
  refine Matrix.ext_bytes fun r c hr hc => ?_
  have h4 : (4 * r + c) / 4 = r := by omega
  have h5 : (4 * r + c) % 4 = c := by omega
  simp [h4, h5]

/-- Loading and storing are inverse (R12). -/
theorem toBlock_toMatrix (b : Block) : toBlock (toMatrix b) = b := by
  refine Vector.ext fun k hk => ?_
  have : 4 * (k / 4) + k % 4 = k := by omega
  simp [this]

/-! ### Write operands -/

/-- The DIN count goes up by one and stops at 255 (R27). -/
theorem inCntNext_toNat (n : BitVec 8) : (inCntNext n).toNat = min 255 (n.toNat + 1) := by
  unfold inCntNext
  split
  · next h => subst h; rfl
  · next h =>
    have : n.toNat ≠ 255 := fun e => h (BitVec.eq_of_toNat_eq e)
    have := n.isLt
    rw [BitVec.toNat_add]
    simp
    omega

theorem ibufAppend_of_lt (b : Block) (n : BitVec 8) (v : Byte) (h : n.toNat < 16) :
    ibufAppend b n v = b.set n.toNat v := by simp [ibufAppend, h]

theorem ibufAppend_of_ge (b : Block) (n : BitVec 8) (v : Byte) (h : 16 ≤ n.toNat) : ibufAppend b n v = b := by
  simp [ibufAppend, Nat.not_lt.mpr h]

/-! ### Flags -/

theorem busy_eq_false_iff (f : Fsm) : busy f = false ↔ f = .idle ∨ f = .error := by cases f <;> simp [busy]

theorem busy_eq_true_iff (f : Fsm) : busy f = true ↔ f ≠ .idle ∧ f ≠ .error := by cases f <;> simp [busy]

theorem err_eq_true_iff (f : Fsm) : err f = true ↔ f = .error := by simp [err]

/-! ### The gate of the commands -/

theorem whenIdle_of_idle (k : State → State) (s : State) (h : s.fsm = .idle) : whenIdle k s = k s := by
  simp [whenIdle, h]

theorem whenIdle_of_error (k : State → State) (s : State) (h : s.fsm = .error) : whenIdle k s = s := by
  simp [whenIdle, h]

theorem whenIdle_of_busy (k : State → State) (s : State) (h : busy s.fsm = true) :
    whenIdle k s = raise .cmdWhileBusy s := by
  cases hf : s.fsm <;> simp_all [whenIdle, busy]

/-- Everything the gate can do (R185). -/
theorem whenIdle_cases (k : State → State) (s : State) :
    (s.fsm = .error ∧ whenIdle k s = s) ∨ (s.fsm = .idle ∧ whenIdle k s = k s) ∨
    (busy s.fsm = true ∧ whenIdle k s = raise .cmdWhileBusy s) := by
  cases hf : s.fsm <;> simp [whenIdle, busy, hf]

/-! ### The guards of the controller steps -/

/-- A stuck CTRL takes no step (U7). -/
theorem unlessStuck_of_fault (k : State → State) (s : State) (h : s.ctrlFault ≠ none) : unlessStuck k s = s := by
  simp [unlessStuck, h]

theorem unlessStuck_of_none (k : State → State) (s : State) (h : s.ctrlFault = none) : unlessStuck k s = k s := by
  simp [unlessStuck, h]

/-- Everything the guard can do (R77, R160, U7): nothing once CTRL is stuck, the step where it is dispatched, the record
of the fault elsewhere. -/
theorem whenDispatched_cases (f : Fsm) (rc : BitVec 4) (k : State → State) (s : State) :
    (s.ctrlFault ≠ none ∧ whenDispatched f rc k s = s) ∨
    (s.ctrlFault = none ∧ s.fsm = f ∧ s.rc = rc ∧ whenDispatched f rc k s = k s) ∨
    (s.ctrlFault = none ∧ ¬(s.fsm = f ∧ s.rc = rc) ∧
      whenDispatched f rc k s = recordFault .unreachableDispatch s) := by
  by_cases hn : s.ctrlFault = none
  · by_cases h : s.fsm = f ∧ s.rc = rc <;> simp [whenDispatched, unlessStuck, hn, h]
  · simp [whenDispatched, unlessStuck, hn]

theorem whenDispatched_of (f : Fsm) (rc : BitVec 4) (k : State → State) (s : State) (hn : s.ctrlFault = none)
    (h1 : s.fsm = f) (h2 : s.rc = rc) : whenDispatched f rc k s = k s := by
  simp [whenDispatched, unlessStuck, hn, h1, h2]

end Sys2Proof.Machine
end

