-- ==== Sys2Proof/Laws/KeySchedule.lean ====
section
/-! SUPPORT. The key schedule word by word, and what one iteration of the expansion does to a table. -/

namespace Sys2Proof.Machine

variable {table : SboxTable}

@[simp] theorem subWord_getElem (w : Word) (j : Nat) (hj : j < 4) : (subWord table w)[j] = sbox table w[j] := by
  simp [subWord]

theorem rotWord_getElem (w : Word) (j : Nat) (hj : j < 4) : (rotWord w)[j] = w[(j + 1) % 4] := by
  match j, hj with
  | 0, _ => rfl
  | 1, _ => rfl
  | 2, _ => rfl
  | 3, _ => rfl

/-- `temp` when i is a multiple of four (R112). -/
theorem scheduleTemp_rotated (i : Nat) (hi : 4 ≤ i ∧ i < 44) (h4 : i % 4 = 0) (prev : Word) (j : Nat) (hj : j < 4) :
    (scheduleTemp table i hi prev)[j] =
      sbox table prev[(j + 1) % 4] ^^^ (if j = 0 then rcon ⟨i / 4 - 1, by omega⟩ else 0x00#8) := by
  by_cases hj0 : j = 0
  · subst hj0
    simp [scheduleTemp, h4, rotWord_getElem]
  · have h0j : ¬ 0 = j := fun e => hj0 e.symm
    simp [scheduleTemp, h4, rotWord_getElem, hj0, h0j]

/-- `temp` otherwise is the word before (R110). -/
theorem scheduleTemp_plain (i : Nat) (hi : 4 ≤ i ∧ i < 44) (h4 : i % 4 ≠ 0) (prev : Word) :
    scheduleTemp table i hi prev = prev := by simp [scheduleTemp, h4]

/-- A schedule word depends only on the two words it is made from. -/
theorem scheduleWord_congr (rk rk' : Schedule) (i : Nat) (hi : 4 ≤ i ∧ i < 44) (h1 : rk[i - 4] = rk'[i - 4])
    (h2 : rk[i - 1] = rk'[i - 1]) : scheduleWord table rk i hi = scheduleWord table rk' i hi := by
  simp [scheduleWord, h1, h2]

/-- Words 0..3 after LOAD_KEY are the key's rows (R111). -/
theorem loadKeyWords_low (rk : Schedule) (key : Block) (i j : Nat) (hi : i < 4) (hj : j < 4) :
    (loadKeyWords rk key)[i][j] = key[4 * i + j] := by simp [loadKeyWords, hi]

/-- The other words stay (R111). -/
theorem loadKeyWords_high (rk : Schedule) (key : Block) (i : Nat) (hi : 4 ≤ i ∧ i < 44) :
    (loadKeyWords rk key)[i] = rk[i] := by simp [loadKeyWords, Nat.not_lt.mpr hi.1]

/-- Nothing below word 4 follows from anything: a table follows the schedule up to 4 words always. -/
theorem followsSchedule_four (rk : Schedule) : FollowsSchedule table rk 4 := fun i hi h => absurd hi.1 (by omega)

/-- One iteration extends the words that follow the schedule by one (R113, R117). -/
theorem followsSchedule_set (rk : Schedule) (i : Nat) (hi : 4 ≤ i ∧ i < 44) (h : FollowsSchedule table rk i) :
    FollowsSchedule table (rk.set i (scheduleWord table rk i hi) hi.2) (i + 1) := by
  intro n hn hlt
  have hc : scheduleWord table (rk.set i (scheduleWord table rk i hi) hi.2) n hn = scheduleWord table rk n hn := by
    apply scheduleWord_congr
    · exact Vector.getElem_set_ne _ _ (by omega)
    · exact Vector.getElem_set_ne _ _ (by omega)
  rw [hc]
  by_cases hni : n = i
  · subst hni; simp
  · rw [Vector.getElem_set_ne _ _ (by omega)]
    exact h n hn (by omega)

/-- Two tables with one key whose words follow the schedule agree as far as they do. -/
theorem followsSchedule_unique (rk rk' : Schedule) (n : Nat) (h : FollowsSchedule table rk n) (h' : FollowsSchedule table rk' n)
    (hkey : ∀ (i : Nat) (hi : i < 4), rk[i] = rk'[i]) : ∀ (i : Nat) (hi : i < 44), i < n → rk[i] = rk'[i] := by
  intro i
  induction i using Nat.strongRecOn with
  | ind i ih =>
    intro hi hn
    by_cases h4 : i < 4
    · exact hkey i h4
    · have hi' : 4 ≤ i ∧ i < 44 := ⟨by omega, hi⟩
      rw [h i hi' hn, h' i hi' hn]
      exact scheduleWord_congr _ _ _ _ (ih (i - 4) (by omega) (by omega) (by omega))
        (ih (i - 1) (by omega) (by omega) (by omega))

/-- The loop of R110 keeps the words below 4. -/
theorem expandWords_low (rk : Schedule) (n i : Nat) (hi : i < 4) : (expandWords table rk n)[i] = rk[i] := by
  induction n with
  | zero => rfl
  | succ n ih =>
    simp only [expandWords]
    split
    · rw [Vector.getElem_set_ne _ _ (by omega)]; exact ih
    · exact ih

/-- After n iterations of R110's loop the first n+4 words follow the schedule. -/
theorem expandWords_follows (rk : Schedule) (n : Nat) (hn : n ≤ 40) : FollowsSchedule table (expandWords table rk n) (n + 4) := by
  induction n with
  | zero => exact followsSchedule_four rk
  | succ n ih =>
    simp only [expandWords, show n + 4 < 44 by omega, ↓reduceDIte]
    have := followsSchedule_set (expandWords table rk n) (n + 4) ⟨by omega, by omega⟩ (ih (by omega))
    simpa [Nat.add_right_comm] using this

/-- One expansion step (R113): one more word, KSIDX one higher. -/
theorem expandStep_last (s : State) (h : 4 ≤ s.ksidx.toNat ∧ s.ksidx.toNat < 44) (h43 : s.ksidx = 43#6) :
    expandStep s h = { s with
      rk := s.rk.set s.ksidx.toNat (scheduleWord s.sboxRom s.rk s.ksidx.toNat h), ksidx := 44#6, keyValid := true,
      fsm := .idle } := by
  simp [expandStep, h43]

theorem expandStep_inner (s : State) (h : 4 ≤ s.ksidx.toNat ∧ s.ksidx.toNat < 44) (h43 : s.ksidx ≠ 43#6) :
    expandStep s h = { s with
      rk := s.rk.set s.ksidx.toNat (scheduleWord s.sboxRom s.rk s.ksidx.toNat h), ksidx := s.ksidx + 1#6 } := by
  simp [expandStep, h43]

/-- Everything CTRL's expansion turn can do when it is not stuck (R113, log 6). -/
theorem expandOrRecord_cases (s : State) :
    (∃ h : 4 ≤ s.ksidx.toNat ∧ s.ksidx.toNat < 44, s.fsm = .keyexp ∧ expandOrRecord s = expandStep s h) ∨
    (¬(s.fsm = .keyexp ∧ 4 ≤ s.ksidx.toNat ∧ s.ksidx.toNat < 44) ∧
      expandOrRecord s = recordFault .unreachableDispatch s) := by
  by_cases h : s.fsm = .keyexp ∧ 4 ≤ s.ksidx.toNat ∧ s.ksidx.toNat < 44
  · exact .inl ⟨h.2, h.1, by simp [expandOrRecord, h]⟩
  · exact .inr ⟨h, by simp [expandOrRecord, h]⟩

end Sys2Proof.Machine
end

