-- ==== Sys2Proof/Laws/Transform.lean ====
section
/-! SUPPORT. The multiplier's linearity and the round transforms byte by byte. -/

namespace Sys2Proof.Machine

/-! ### The multiplier -/

theorem xtime_xor (a b : Byte) : xtime (a ^^^ b) = xtime a ^^^ xtime b := by
  have hx : ∀ x y : Bool, (if (x ^^ y) then 0x1B#8 else 0x00#8) =
      (if x then 0x1B#8 else 0x00#8) ^^^ (if y then 0x1B#8 else 0x00#8) := by decide
  simp only [xtime, BitVec.getLsbD_xor, hx, BitVec.shiftLeft_xor_distrib]
  ac_rfl

/-- The loop is linear in its first operand and its accumulator together. -/
theorem gfLoop_xor (n : Nat) (a a' b acc acc' : Byte) :
    gfLoop n (a ^^^ a') b (acc ^^^ acc') = gfLoop n a b acc ^^^ gfLoop n a' b acc' := by
  induction n generalizing a a' b acc acc' with
  | zero => rfl
  | succ n ih =>
    simp only [gfLoop, xtime_xor]
    cases h : b.getLsbD 0
    · simp [ih]
    · simp only [↓reduceIte]
      rw [← ih]
      congr 1
      ac_rfl

/-- The multiplier distributes over XOR in its first operand (R91). -/
theorem gfMul_xor_left (a a' b : Byte) : gfMul (a ^^^ a') b = gfMul a b ^^^ gfMul a' b := by
  have := gfLoop_xor 8 a a' b 0x00#8 0x00#8
  simpa [gfMul] using this

theorem gfMul_zero_left (b : Byte) : gfMul 0x00#8 b = 0x00#8 := by
  have := gfMul_xor_left 0x00#8 0x00#8 b
  simpa using this

/-! ### The transforms, byte by byte -/

@[simp] theorem subBytes_getElem (table : SboxTable) (m : Matrix) (r c : Nat) (hr : r < 4)
    (hc : c < 4) : (subBytes table m)[r][c] = sbox table m[r][c] := by simp [subBytes]

@[simp] theorem shiftRows_getElem (m : Matrix) (r c : Nat) (hr : r < 4) (hc : c < 4) :
    (shiftRows m)[r][c] = m[(r + c) % 4][c] := by simp [shiftRows]

@[simp] theorem mixColumns_getElem (m : Matrix) (g : Nat) (hg : g < 4) : (mixColumns m)[g] = mixGroup m[g] := by
  simp [mixColumns]

@[simp] theorem addRoundKey_getElem (m : Matrix) (rk : Schedule) (k : Fin 11) (r c : Nat) (hr : r < 4) (hc : c < 4) :
    (addRoundKey m rk k)[r][c] = m[r][c] ^^^ rk[4 * k.val + r][c] := by simp [addRoundKey]

theorem mixGroup_zero (s : Word) :
    (mixGroup s)[0] = gfMul 0x02#8 s[0] ^^^ gfMul 0x03#8 s[1] ^^^ s[2] ^^^ s[3] := rfl

theorem mixGroup_one (s : Word) :
    (mixGroup s)[1] = s[0] ^^^ gfMul 0x02#8 s[1] ^^^ gfMul 0x03#8 s[2] ^^^ s[3] := rfl

theorem mixGroup_two (s : Word) :
    (mixGroup s)[2] = s[0] ^^^ s[1] ^^^ gfMul 0x02#8 s[2] ^^^ gfMul 0x03#8 s[3] := rfl

theorem mixGroup_three (s : Word) :
    (mixGroup s)[3] = gfMul 0x03#8 s[0] ^^^ s[1] ^^^ s[2] ^^^ gfMul 0x02#8 s[3] := rfl

end Sys2Proof.Machine
end

