-- ==== Sys2Proof/Laws/Meanings.lean ====
section
/-! SUPPORT. What one instruction can do, said once: every next state of `exec` is one of the effects listed here. -/

namespace Sys2Proof.Machine

/-- What an instruction can do to the state when it answers a next state. -/
inductive Effect : Instr → State → State → Prop where
  /-- nothing: NOP, an ignored write, a command in ERROR, CTRL without a step or stuck -/
  | still (i : Instr) (s : State) : Effect i s s
  /-- a register transaction: only the input buffer, the test ports, and what HOST has read -/
  | port (i : Instr) (s t : State) (hg : i.isGatedCommand = false) (hr : i ≠ .cmdSoftReset)
      (hc : i.isControllerStep = false)
      (h : t = { s with
        ibuf := t.ibuf, inCnt := t.inCnt, rkidx := t.rkidx, gfa := t.gfa, gfb := t.gfb, sbin := t.sbin
        reads := t.reads, draws := t.draws }) : Effect i s t
  /-- CTRL records that it met no step to take (R160) -/
  | faulted (i : Instr) (s : State) (hc : i.isControllerStep = true) (hn : s.ctrlFault = none) :
      Effect i s (recordFault .unreachableDispatch s)
  /-- error entry (R220) -/
  | raised (i : Instr) (s : State) (e : ErrCode) (hg : i.isGatedCommand = true) (hs : s.fsm ≠ .error)
      (he : e ≠ .none) : Effect i s (raise e s)
  /-- SOFT_RESET (R188) -/
  | reset (s : State) : Effect .cmdSoftReset s (applyReset s)
  /-- LOAD_KEY accepted (R111) -/
  | loadKey (s : State) (hi : s.fsm = .idle) (hn : s.inCnt = 16#8) :
      Effect .cmdLoadKey s
        { s with rk := loadKeyWords s.rk s.ibuf, keyValid := false, ksidx := 4#6, inCnt := 0x00#8, fsm := .keyexp }
  /-- ENCRYPT accepted (R150) -/
  | encrypt (s : State) (hi : s.fsm = .idle) (hn : s.inCnt = 16#8) (hk : s.keyValid = true) :
      Effect .cmdEncrypt s
        { s with st := toMatrix s.ibuf, rc := 0#4, done := false, inCnt := 0x00#8, fsm := .loaded }
  /-- one word of the expansion (R113) -/
  | expand (rc : BitVec 4) (s : State) (hn : s.ctrlFault = none) (hf : s.fsm = .keyexp) (h : 4 ≤ s.ksidx.toNat ∧ s.ksidx.toNat < 44) :
      Effect (.ctrlKeyexp rc) s (expandStep s h)
  /-- whitening (R152) -/
  | whiten (s : State) (hn : s.ctrlFault = none) (hf : s.fsm = .loaded) (hr : s.rc = 0#4) :
      Effect .ctrlWhiten s { s with st := addRoundKey s.st s.rk 0, rc := 1#4, fsm := .whitened }
  /-- full round n (R153) -/
  | fullRound (i : Instr) (s : State) (hn : s.ctrlFault = none) (hc : i.isControllerStep = true) (n : Fin 11)
      (h1 : 1 ≤ n.val) (h9 : n.val ≤ 9) (hr : s.rc.toNat = n.val) (hf : if n.val = 1 then s.fsm = .whitened else s.fsm = .round) :
      Effect i s { s with st := fullRound s.sboxRom s.st s.rk n, rc := s.rc + 1#4, fsm := .round }
  /-- the final round (R155) -/
  | finalRound (s : State) (hn : s.ctrlFault = none) (hf : s.fsm = .round) (hr : s.rc = 10#4) :
      Effect .ctrlFinalround s { s with st := finalRound s.sboxRom s.st s.rk, rc := 11#4, fsm := .final }
  /-- serialize (R157) -/
  | serialize (s : State) (hn : s.ctrlFault = none) (hf : s.fsm = .final) (hr : s.rc = 11#4) :
      Effect .ctrlSerialize s { s with out := toBlock s.st, done := true, fsm := .idle }

/-- A gated command: ignored in ERROR, CMD_WHILE_BUSY while busy, its own effect in IDLE. -/
theorem effect_of_gate (i : Instr) (hg : i.isGatedCommand = true) (k : State → State) (s : State)
    (hk : s.fsm = .idle → Effect i s (k s)) : Effect i s (whenIdle k s) := by
  rcases whenIdle_cases k s with ⟨_, h⟩ | ⟨hi, h⟩ | ⟨hb, h⟩
  · rw [h]; exact .still i s
  · rw [h]; exact hk hi
  · rw [h]; exact .raised i s _ hg ((busy_eq_true_iff _).mp hb).2 (by decide)

/-- A guarded controller step: nothing once CTRL is stuck, its own effect where it is dispatched, else the fault. -/
theorem effect_of_dispatch (i : Instr) (hc : i.isControllerStep = true) (f : Fsm) (rc : BitVec 4) (k : State → State)
    (s : State) (hk : s.ctrlFault = none → s.fsm = f → s.rc = rc → Effect i s (k s)) :
    Effect i s (whenDispatched f rc k s) := by
  rcases whenDispatched_cases f rc k s with ⟨_, h⟩ | ⟨hn, hf, hr, h⟩ | ⟨hn, _, h⟩ <;> rw [h]
  · exact .still i s
  · exact hk hn hf hr
  · exact .faulted i s hc hn

/-- A row that is never dispatched records the fault, once. -/
theorem effect_of_record (i : Instr) (hc : i.isControllerStep = true) (s : State) :
    Effect i s (unlessStuck (recordFault .unreachableDispatch) s) := by
  by_cases hn : s.ctrlFault = none
  · rw [unlessStuck_of_none _ _ hn]; exact .faulted i s hc hn
  · rw [unlessStuck_of_fault _ _ hn]; exact .still i s

/-- Everything an instruction can do. -/
theorem exec_effect {i : Instr} {s t : State} (h : exec i s = .next t) : Effect i s t := by
  cases i with
  | cmdNop => cases h; exact .still _ _
  | cmdLoadKey =>
    cases h
    refine effect_of_gate _ rfl _ _ fun hi => ?_
    unfold acceptLoadKey
    split
    · next hn => exact .loadKey s hi hn
    · exact .raised _ s _ rfl (by simp [hi]) (by decide)
  | cmdEncrypt =>
    cases h
    refine effect_of_gate _ rfl _ _ fun hi => ?_
    unfold acceptEncrypt
    split
    · next hn =>
      split
      · next hk => exact .encrypt s hi hn hk
      · exact .raised _ s _ rfl (by simp [hi]) (by decide)
    · exact .raised _ s _ rfl (by simp [hi]) (by decide)
  | cmdDecrypt =>
    cases h
    exact effect_of_gate _ rfl _ _ fun hi => .raised _ s _ rfl (by simp [hi]) (by decide)
  | cmdSoftReset => cases h; exact .reset s
  | cmdIllegal c =>
    cases h
    exact effect_of_gate _ rfl _ _ fun hi => .raised _ s _ rfl (by simp [hi]) (by decide)
  | rdRkwin k d =>
    cases h
    refine .port _ _ _ rfl (by simp) rfl ?_
    cases hv : rkwinByte s k <;> simp [respondOrDraw, respond, respondDraw]
  | rdCmd | rdStatus | rdErrcode | rdDin | rdInCnt | rdFsm | rdRoundcnt | rdKsidx | rdRkidx | rdGfa | rdGfb | rdGfp
  | rdSbin | rdSbout | rdOut | rdReserved | wrDin | wrRkidx | wrGfa | wrGfb | wrSbin =>
    cases h
    exact .port _ _ _ rfl (by simp) rfl rfl
  | wrIgnored a d => cases h; exact .still _ _
  | ctrlKeyexp rc =>
    cases h
    by_cases hn : s.ctrlFault = none
    · rw [unlessStuck_of_none _ _ hn]
      rcases expandOrRecord_cases s with ⟨hk, hf, e⟩ | ⟨_, e⟩ <;> rw [e]
      · exact .expand rc s hn hf hk
      · exact .faulted _ s rfl hn
    · rw [unlessStuck_of_fault _ _ hn]; exact .still _ s
  | ctrlWhiten =>
    cases h
    refine effect_of_dispatch _ rfl _ _ _ _ fun hn hf hr => ?_
    simpa [hr] using Effect.whiten s hn hf hr
  | ctrlFullroundFirst =>
    cases h
    refine effect_of_dispatch _ rfl _ _ _ _ fun hn hf hr => ?_
    exact .fullRound _ s hn rfl 1 (by decide) (by decide) (by simp [hr]) (by simp [hf])
  | ctrlFullround r =>
    simp only [exec, execCtrlFullround] at h
    split at h <;> cases h
    · next hb =>
      refine effect_of_dispatch _ rfl _ _ _ _ fun hn hf hr => ?_
      subst hr
      exact .fullRound _ s hn rfl ⟨s.rc.toNat, by omega⟩ (by simp; omega) hb.2 rfl
        (by rw [if_neg (by simp; omega)]; exact hf)
    · exact effect_of_record _ rfl s
  | ctrlFinalround =>
    cases h
    refine effect_of_dispatch _ rfl _ _ _ _ fun hn hf hr => ?_
    simpa [hr] using Effect.finalRound s hn hf hr
  | ctrlSerialize =>
    cases h
    exact effect_of_dispatch _ rfl _ _ _ _ fun hn hf hr => .serialize s hn hf hr
  | ctrlNoneIdle | ctrlNoneError => cases h; exact .still _ _
  | ctrlUnreachable f r => cases h; exact effect_of_record _ rfl s

/-- Every instruction answers a next state: none is refused, and none stops the machine. -/
theorem exec_next (i : Instr) (s : State) : ∃ t, exec i s = .next t := by
  cases i with
  | ctrlFullround n =>
    simp only [exec, execCtrlFullround]
    split <;> exact ⟨_, rfl⟩
  | _ => exact ⟨_, rfl⟩

/-- A stuck CTRL takes no step, whatever row it is given (U7). -/
theorem exec_of_stuck (i : Instr) (hc : i.isControllerStep = true) (s : State) (h : s.ctrlFault ≠ none) :
    exec i s = .next s := by
  obtain ⟨t, e⟩ := exec_next i s
  rw [e]
  cases exec_effect e with
  | still => rfl
  | port _ _ _ _ _ hp => rw [hc] at hp; cases hp
  | faulted _ _ _ hn | expand _ _ hn | whiten _ hn | fullRound _ _ hn | finalRound _ hn | serialize _ hn =>
    exact absurd hn h
  | raised _ _ _ hg => cases i <;> simp [Instr.isControllerStep, Instr.isGatedCommand] at hc hg
  | reset | loadKey | encrypt => cases hc

/-- No instruction writes the SBox ROM (R94). -/
theorem exec_sboxRom {i : Instr} {s t : State} (h : exec i s = .next t) : t.sboxRom = s.sboxRom := by
  cases exec_effect h with
  | port _ _ _ _ _ _ ht => rw [ht]
  | _ => rfl

/-- An instruction leaves the turns to come alone. -/
theorem exec_turns {i : Instr} {s t : State} (h : exec i s = .next t) : t.turns = s.turns := by
  cases exec_effect h with
  | port _ _ _ _ _ _ ht => rw [ht]
  | _ => rfl

/-- An instruction leaves fsm, RC, KSIDX, the flags, ERRCODE, OUT, ST, RK, the ROM and CTRL's fault if it is a register
transaction. -/
theorem port_leaves_datapath {s t : State} (h : t = { s with
    ibuf := t.ibuf, inCnt := t.inCnt, rkidx := t.rkidx, gfa := t.gfa, gfb := t.gfb, sbin := t.sbin
    reads := t.reads, draws := t.draws }) :
    t.fsm = s.fsm ∧ t.rc = s.rc ∧ t.ksidx = s.ksidx ∧ t.done = s.done ∧ t.keyValid = s.keyValid ∧
    t.errcode = s.errcode ∧ t.out = s.out ∧ t.st = s.st ∧ t.rk = s.rk ∧ t.sboxRom = s.sboxRom ∧
    t.ctrlFault = s.ctrlFault := by
  rw [h]; simp

end Sys2Proof.Machine
end

