-- ==== Sys2Proof/Laws/PerInstr.lean ====
section
/-! SUPPORT. The form each instruction is encoded in: a bus transaction is a word of three bytes, a row of the
controller's dispatch a key of two (R71, R77; log 7). -/

namespace Sys2Proof.Laws.EncodedForm

/-- A controller step is encoded as a key, and everything else as a word. -/
def Statement (i : Instr) : Prop := (encode i).length = if i.isControllerStep then 2 else 3

theorem cmdNop : Statement .cmdNop := rfl
theorem cmdLoadKey : Statement .cmdLoadKey := rfl
theorem cmdEncrypt : Statement .cmdEncrypt := rfl
theorem cmdDecrypt : Statement .cmdDecrypt := rfl
theorem cmdSoftReset : Statement .cmdSoftReset := rfl
theorem cmdIllegal (c : Byte) : Statement (.cmdIllegal c) := rfl
theorem rdCmd (d : Byte) : Statement (.rdCmd d) := rfl
theorem rdStatus (d : Byte) : Statement (.rdStatus d) := rfl
theorem rdErrcode (d : Byte) : Statement (.rdErrcode d) := rfl
theorem rdDin (d : Byte) : Statement (.rdDin d) := rfl
theorem rdInCnt (d : Byte) : Statement (.rdInCnt d) := rfl
theorem rdFsm (d : Byte) : Statement (.rdFsm d) := rfl
theorem rdRoundcnt (d : Byte) : Statement (.rdRoundcnt d) := rfl
theorem rdKsidx (d : Byte) : Statement (.rdKsidx d) := rfl
theorem rdRkidx (d : Byte) : Statement (.rdRkidx d) := rfl
theorem rdGfa (d : Byte) : Statement (.rdGfa d) := rfl
theorem rdGfb (d : Byte) : Statement (.rdGfb d) := rfl
theorem rdGfp (d : Byte) : Statement (.rdGfp d) := rfl
theorem rdSbin (d : Byte) : Statement (.rdSbin d) := rfl
theorem rdSbout (d : Byte) : Statement (.rdSbout d) := rfl
theorem rdOut (k : BitVec 4) (d : Byte) : Statement (.rdOut k d) := rfl
theorem rdRkwin (k : BitVec 4) (d : Byte) : Statement (.rdRkwin k d) := rfl
theorem rdReserved (a d : Byte) : Statement (.rdReserved a d) := rfl
theorem wrDin (v : Byte) : Statement (.wrDin v) := rfl
theorem wrRkidx (v : Byte) : Statement (.wrRkidx v) := rfl
theorem wrGfa (v : Byte) : Statement (.wrGfa v) := rfl
theorem wrGfb (v : Byte) : Statement (.wrGfb v) := rfl
theorem wrSbin (v : Byte) : Statement (.wrSbin v) := rfl
theorem wrIgnored (a d : Byte) : Statement (.wrIgnored a d) := rfl
theorem ctrlKeyexp (rc : BitVec 4) : Statement (.ctrlKeyexp rc) := rfl
theorem ctrlWhiten : Statement .ctrlWhiten := rfl
theorem ctrlFullroundFirst : Statement .ctrlFullroundFirst := rfl
theorem ctrlFullround (r : BitVec 4) : Statement (.ctrlFullround r) := rfl
theorem ctrlFinalround : Statement .ctrlFinalround := rfl
theorem ctrlSerialize : Statement .ctrlSerialize := rfl
theorem ctrlNoneIdle (rc : BitVec 4) : Statement (.ctrlNoneIdle rc) := rfl
theorem ctrlNoneError (rc : BitVec 4) : Statement (.ctrlNoneError rc) := rfl
theorem ctrlUnreachable (f : Fsm) (r : BitVec 4) : Statement (.ctrlUnreachable f r) := rfl

end Sys2Proof.Laws.EncodedForm
end

