-- ==== Sys2Proof/Laws/Step.lean ====
section
/-! SUPPORT. What one step can do, said once: which turn is made, and that it is made on the state without it. -/

namespace Sys2Proof.Machine

/-- CTRL's turn, listed or not. -/
theorem step_ctrl {s : State} (h : s.ctrlNext) :
    step s = exec (decodeDispatch s.fsm s.rc) { s with turns := s.turns.tail } := by
  obtain ⟨ts, h⟩ | h := h
  · simp [step, h]
  · have : { s with turns := [] } = s := by rw [← h]
    simp [step, h, this]

theorem step_bus {s : State} {w : BitVec 17} {ts : List Turn} (h : s.turns = .bus w :: ts) :
    step s = exec (decodeTransaction w) { s with turns := ts } := by simp [step, h]

theorem step_reset {s : State} {ts : List Turn} (h : s.turns = .reset :: ts) :
    step s = .next (applyReset { s with turns := ts }) := by simp [step, h]

/-- Everything a step can be. -/
theorem step_cases (s : State) :
    (s.ctrlNext ∧ step s = exec (decodeDispatch s.fsm s.rc) { s with turns := s.turns.tail }) ∨
    (∃ ts, s.turns = .reset :: ts ∧ step s = .next (applyReset { s with turns := ts })) ∨
    (∃ w ts, s.turns = .bus w :: ts ∧ step s = exec (decodeTransaction w) { s with turns := ts }) := by
  match h : s.turns with
  | [] => exact .inl ⟨.inr h, by simpa [h] using step_ctrl (.inr h)⟩
  | .ctrl :: ts => exact .inl ⟨.inl ⟨ts, h⟩, by simpa [h] using step_ctrl (.inl ⟨ts, h⟩)⟩
  | .reset :: ts => exact .inr (.inl ⟨ts, rfl, step_reset h⟩)
  | .bus w :: ts => exact .inr (.inr ⟨w, ts, rfl, step_bus h⟩)

/-- A step takes the turn it makes off the list. -/
theorem step_turns {s t : State} (h : step s = .next t) : t.turns = s.turns.tail := by
  rcases step_cases s with ⟨_, e⟩ | ⟨ts, ht, e⟩ | ⟨w, ts, ht, e⟩ <;> rw [e] at h
  · exact exec_turns h
  · cases h; simp [ht]
  · simpa [ht] using exec_turns h

end Sys2Proof.Machine
end

