-- ==== Sys2Proof/Tests/Slice0.lean ====
section
/-! SUPPORT. The model's own tests: expected values come from spec/95_test_vectors.md and from the encodings of
30_encoding.md, never from the model. Then a witness for the hypotheses of every statement that has any. -/

open Sys2Proof Sys2Proof.Machine

namespace Sys2Proof.Tests

/-! ### Small states -/

def zeroBlock : Block := Vector.ofFn fun _ => 0x00#8

def zeroMatrix : Matrix := Vector.ofFn fun _ => Vector.ofFn fun _ => 0x00#8

def zeroSchedule : Schedule := Vector.ofFn fun _ => Vector.ofFn fun _ => 0x00#8

/-- The block 00 01 .. 0f. -/
def countingBlock : Block := Vector.ofFn fun k => BitVec.ofNat 8 k

/-- The state after reset, with zeros where the spec leaves the bytes unspecified; the ROM holds R95's table. -/
def idle : State where
  fsm := .idle
  done := false
  keyValid := false
  errcode := .none
  inCnt := 0x00#8
  rc := 0#4
  ksidx := 0#6
  rkidx := 0#4
  gfa := 0x00#8
  gfb := 0x00#8
  sbin := 0x00#8
  out := zeroBlock
  ibuf := zeroBlock
  rk := zeroSchedule
  st := zeroMatrix
  sboxRom := defaultSboxTable
  ctrlFault := none
  turns := []
  reads := []
  draws := 0

/-- IDLE with the block 00 .. 0f in IBUF, `n` bytes counted, and the zero key's schedule if `valid`. -/
def ready (n : BitVec 8) (valid : Bool) : State :=
  { idle with
    ibuf := countingBlock
    inCnt := n
    keyValid := valid
    ksidx := if valid then 44#6 else 0#6
    rk := if valid then keyExpand defaultSboxTable zeroBlock else zeroSchedule }

/-- A LOAD_KEY of the zero key just accepted. -/
def expanding : State := { idle with fsm := .keyexp, ksidx := 4#6 }

/-- The pipeline in a given state with a valid key. -/
def piped (f : Fsm) (rc : BitVec 4) (st : Matrix) : State :=
  { idle with fsm := f, rc := rc, st := st, keyValid := true, ksidx := 44#6 }

/-- Round 5 under way, with every register set; word `i` of the table is four bytes `i`, OUT is 00 .. 0f. -/
def used : State :=
  { piped .round 5#4 zeroMatrix with
    inCnt := 255#8, rkidx := 7#4, gfa := 0x57#8, gfb := 0x83#8, sbin := 0x53#8, out := countingBlock
    rk := Vector.ofFn fun i => Vector.ofFn fun _ => BitVec.ofNat 8 i }

/-- A function of the state an instruction answers. -/
def after {α : Type} (i : Instr) (s : State) (f : State → α) : Option α :=
  match exec i s with
  | .next t => some (f t)
  | .fault _ => none
  | .refused _ => none

/-- A function of the state a step answers. -/
def stepOnce {α : Type} (s : State) (f : State → α) : Option α :=
  match step s with
  | .next t => some (f t)
  | .fault _ => none
  | .refused _ => none

/-- The byte a read answers. -/
def answer (i : Instr) (s : State) : Option Byte := (after i s (·.reads.head?)).join

/-- STATUS and ERRCODE as they read. -/
def errorRead (t : State) : Byte × Byte := (statusByte t, t.errcode.code)

/-! ### Well-formedness: one ill-formed term for each check, and the boundary the check lets pass -/

/-- CMD_ILLEGAL takes no command byte (R75). -/
theorem test_wf_command_byte :
    Instr.wf (.cmdIllegal 0x0F#8) = false ∧ Instr.wf (.cmdIllegal 0x01#8) = false ∧
    Instr.wf (.cmdIllegal 0x04#8) = true ∧ Instr.wf (.cmdIllegal 0x0E#8) = true ∧ Instr.wf (.cmdIllegal 0x10#8) = true := by decide

/-- RD_RESERVED takes 0x0E, 0x0F and 0x30..0xFF only (R55). -/
theorem test_wf_reserved_address :
    Instr.wf (.rdReserved 0x0D#8 0x00#8) = false ∧ Instr.wf (.rdReserved 0x2F#8 0x00#8) = false ∧
    Instr.wf (.rdReserved 0x0E#8 0x00#8) = true ∧ Instr.wf (.rdReserved 0x30#8 0x00#8) = true := by decide

/-- WR_IGNORED takes no writable address (R189). -/
theorem test_wf_ignored_address :
    Instr.wf (.wrIgnored 0x03#8 0x00#8) = false ∧ Instr.wf (.wrIgnored 0x0C#8 0x00#8) = false ∧
    Instr.wf (.wrIgnored 0x00#8 0x00#8) = false ∧ Instr.wf (.wrIgnored 0x0D#8 0x00#8) = true ∧
    Instr.wf (.wrIgnored 0x10#8 0x00#8) = true := by decide

/-- CTRL_FULLROUND takes rounds 2..9 (R77). -/
theorem test_wf_full_round :
    Instr.wf (.ctrlFullround 1#4) = false ∧ Instr.wf (.ctrlFullround 10#4) = false ∧
    Instr.wf (.ctrlFullround 2#4) = true ∧ Instr.wf (.ctrlFullround 9#4) = true := by decide

/-- CTRL_UNREACHABLE takes no pair that another row matches (R160). -/
theorem test_wf_unreachable_pair :
    Instr.wf (.ctrlUnreachable .loaded 0#4) = false ∧ Instr.wf (.ctrlUnreachable .whitened 1#4) = false ∧
    Instr.wf (.ctrlUnreachable .round 2#4) = false ∧ Instr.wf (.ctrlUnreachable .round 10#4) = false ∧
    Instr.wf (.ctrlUnreachable .final 11#4) = false ∧ Instr.wf (.ctrlUnreachable .keyexp 3#4) = false ∧
    Instr.wf (.ctrlUnreachable .idle 0#4) = false ∧ Instr.wf (.ctrlUnreachable .error 0#4) = false ∧
    Instr.wf (.ctrlUnreachable .round 11#4) = true ∧ Instr.wf (.ctrlUnreachable .round 1#4) = true := by decide

/-! ### Decoding: every constructor from a word written out from R71, R74, R76 and R77 -/

/-- CMD writes: bit 16 one, ADDR 0x00, DATA the command byte (R74); programs P3 and P6 use these words. -/
theorem test_decode_commands :
    decodeTableWord 24 0x10000 = some .cmdNop ∧
    decodeTableWord 24 0x10001 = some .cmdLoadKey ∧
    decodeTableWord 24 0x10002 = some .cmdEncrypt ∧
    decodeTableWord 24 0x10003 = some .cmdDecrypt ∧
    decodeTableWord 24 0x1000F = some .cmdSoftReset ∧
    decodeTableWord 24 0x10042 = some (.cmdIllegal 0x42#8) ∧
    decodeTableWord 24 0x10004 = some (.cmdIllegal 0x04#8) ∧
    decodeTableWord 24 0x100FF = some (.cmdIllegal 0xFF#8) := by decide

/-- Reads: bit 16 zero, ADDR the register, DATA ignored but kept (R76). -/
theorem test_decode_reads :
    decodeTableWord 24 0x00000 = some (.rdCmd 0x00#8) ∧
    decodeTableWord 24 0x001A5 = some (.rdStatus 0xA5#8) ∧
    decodeTableWord 24 0x00200 = some (.rdErrcode 0x00#8) ∧
    decodeTableWord 24 0x00300 = some (.rdDin 0x00#8) ∧
    decodeTableWord 24 0x00400 = some (.rdInCnt 0x00#8) ∧
    decodeTableWord 24 0x00500 = some (.rdFsm 0x00#8) ∧
    decodeTableWord 24 0x00600 = some (.rdRoundcnt 0x00#8) ∧
    decodeTableWord 24 0x00700 = some (.rdKsidx 0x00#8) ∧
    decodeTableWord 24 0x00800 = some (.rdRkidx 0x00#8) ∧
    decodeTableWord 24 0x00900 = some (.rdGfa 0x00#8) ∧
    decodeTableWord 24 0x00A00 = some (.rdGfb 0x00#8) ∧
    decodeTableWord 24 0x00B00 = some (.rdGfp 0x00#8) ∧
    decodeTableWord 24 0x00C00 = some (.rdSbin 0x00#8) ∧
    decodeTableWord 24 0x00D00 = some (.rdSbout 0x00#8) := by decide

/-- OUT, RKWIN and the reserved addresses (R76, R55). -/
theorem test_decode_window_reads :
    decodeTableWord 24 0x01000 = some (.rdOut 0#4 0x00#8) ∧
    decodeTableWord 24 0x01F00 = some (.rdOut 15#4 0x00#8) ∧
    decodeTableWord 24 0x02500 = some (.rdRkwin 5#4 0x00#8) ∧
    decodeTableWord 24 0x00E00 = some (.rdReserved 0x0E#8 0x00#8) ∧
    decodeTableWord 24 0x00F00 = some (.rdReserved 0x0F#8 0x00#8) ∧
    decodeTableWord 24 0x03000 = some (.rdReserved 0x30#8 0x00#8) ∧
    decodeTableWord 24 0x0FFFF = some (.rdReserved 0xFF#8 0xFF#8) := by decide

/-- Register writes, and the writes R189 ignores (R76); program P4 uses these words. -/
theorem test_decode_writes :
    decodeTableWord 24 0x1037F = some (.wrDin 0x7F#8) ∧
    decodeTableWord 24 0x1081B = some (.wrRkidx 0x1B#8) ∧
    decodeTableWord 24 0x10957 = some (.wrGfa 0x57#8) ∧
    decodeTableWord 24 0x10A83 = some (.wrGfb 0x83#8) ∧
    decodeTableWord 24 0x10C53 = some (.wrSbin 0x53#8) ∧
    decodeTableWord 24 0x10E55 = some (.wrIgnored 0x0E#8 0x55#8) ∧
    decodeTableWord 24 0x101FF = some (.wrIgnored 0x01#8 0xFF#8) ∧
    decodeTableWord 24 0x11000 = some (.wrIgnored 0x10#8 0x00#8) := by decide

/-- Dispatch keys: bits 11:4 the fsm code of R78, bits 3:0 RC (R77). -/
theorem test_decode_dispatch :
    decodeTableWord 16 0x013 = some (.ctrlKeyexp 3#4) ∧
    decodeTableWord 16 0x020 = some .ctrlWhiten ∧
    decodeTableWord 16 0x031 = some .ctrlFullroundFirst ∧
    decodeTableWord 16 0x042 = some (.ctrlFullround 2#4) ∧
    decodeTableWord 16 0x049 = some (.ctrlFullround 9#4) ∧
    decodeTableWord 16 0x04A = some .ctrlFinalround ∧
    decodeTableWord 16 0x05B = some .ctrlSerialize ∧
    decodeTableWord 16 0x005 = some (.ctrlNoneIdle 5#4) ∧
    decodeTableWord 16 0x0F0 = some (.ctrlNoneError 0#4) ∧
    decodeTableWord 16 0x021 = some (.ctrlUnreachable .loaded 1#4) ∧
    decodeTableWord 16 0x04B = some (.ctrlUnreachable .round 11#4) ∧
    decodeTableWord 16 0x05A = some (.ctrlUnreachable .final 10#4) := by decide

/-- What is no word and no key is rejected by name (R71, R77, R78). -/
theorem test_decode_rejects :
    (decode [0x01#8] = .error .wrongLength) ∧ (decode [0x00#8, 0x00#8, 0x02#8] = .error .transactionBitsAbove16) ∧
    (decode [0x20#8, 0x10#8] = .error .keyBitsAbove11) ∧ (decode [0x60#8, 0x00#8] = .error .unknownFsmCode) := by
  refine ⟨?_, ?_, ?_, ?_⟩ <;> rfl

/-- The encoder lays the same words out, bits 7..0 first (log 7). -/
theorem test_encode_bytes :
    encode (.wrSbin 0x53#8) = [0x53#8, 0x0C#8, 0x01#8] ∧ encode (.rdRkwin 15#4 0x00#8) = [0x00#8, 0x2F#8, 0x00#8] ∧
    encode .ctrlSerialize = [0x5B#8, 0x00#8] ∧ encode (.ctrlNoneError 2#4) = [0xF2#8, 0x00#8] := by decide

/-! ### The leaves -/

/-- Vectors L2-GF-1, 2, 3, 5, 6, 8, 9, 17 and 22. -/
theorem test_multiplier_vectors :
    gfMul 0x57#8 0x83#8 = 0xC1#8 ∧
    gfMul 0x57#8 0x13#8 = 0xFE#8 ∧
    gfMul 0x02#8 0x80#8 = 0x1B#8 ∧
    gfMul 0xFF#8 0xFF#8 = 0x13#8 ∧
    gfMul 0x02#8 0xC6#8 = 0x97#8 ∧
    gfMul 0x53#8 0xCA#8 = 0x01#8 ∧
    gfMul 0x80#8 0x80#8 = 0x9A#8 ∧
    gfMul 0x03#8 0x7B#8 = 0x8D#8 ∧
    gfMul 0x8D#8 0xE5#8 = 0xFF#8 := by decide

/-- Vectors L2-SB-1, 4, 5, 6, 9, 11, 12, 16 and 14. -/
theorem test_sbox_vectors :
    sbox defaultSboxTable 0x00#8 = 0x63#8 ∧
    sbox defaultSboxTable 0x45#8 = 0x6E#8 ∧
    sbox defaultSboxTable 0xB4#8 = 0x8D#8 ∧
    sbox defaultSboxTable 0x52#8 = 0x00#8 ∧
    sbox defaultSboxTable 0x80#8 = 0xCD#8 ∧
    sbox defaultSboxTable 0xC9#8 = 0xDD#8 ∧
    sbox defaultSboxTable 0xFF#8 = 0x16#8 ∧
    sbox defaultSboxTable 0xF0#8 = 0x8C#8 ∧
    sbox defaultSboxTable 0x8D#8 = 0x5D#8 := by decide

/-- L2-RT-2, and the source's row permutation L1-3. -/
theorem test_sub_shift_vectors :
    toBlock (subBytes defaultSboxTable #v[#v[0xF0#8, 0xF1#8, 0xF2#8, 0xF3#8], #v[0xF4#8, 0xF5#8, 0xF6#8, 0xF7#8], #v[0xF8#8, 0xF9#8, 0xFA#8, 0xFB#8], #v[0xFC#8, 0xFD#8, 0xFE#8, 0xFF#8]]) =
      #v[0x8C#8, 0xA1#8, 0x89#8, 0x0D#8, 0xBF#8, 0xE6#8, 0x42#8, 0x68#8, 0x41#8, 0x99#8, 0x2D#8, 0x0F#8, 0xB0#8, 0x54#8, 0xBB#8, 0x16#8] ∧
    shiftRows #v[#v[0x63#8, 0x63#8, 0x7C#8, 0x7C#8], #v[0x7B#8, 0x7B#8, 0xC5#8, 0xC5#8], #v[0x76#8, 0x76#8, 0xC0#8, 0xC0#8], #v[0x75#8, 0x75#8, 0xD2#8, 0xD2#8]] =
      #v[#v[0x63#8, 0x7B#8, 0xC0#8, 0xD2#8], #v[0x7B#8, 0x76#8, 0xD2#8, 0x7C#8], #v[0x76#8, 0x75#8, 0x7C#8, 0xC5#8], #v[0x75#8, 0x63#8, 0xC5#8, 0xC0#8]] := by decide

/-- The source's diffusion example L1-4 (read as C2 says), and L2-MC-2 and 9. -/
theorem test_mix_vectors :
    mixColumns #v[#v[0x63#8, 0x7B#8, 0xC0#8, 0xD2#8], #v[0x7B#8, 0x76#8, 0xD2#8, 0x7C#8], #v[0x76#8, 0x75#8, 0x7C#8, 0xC5#8], #v[0x75#8, 0x63#8, 0xC5#8, 0xC0#8]] =
      #v[#v[0x59#8, 0x1C#8, 0xEE#8, 0xA1#8], #v[0xC2#8, 0x86#8, 0x36#8, 0xD1#8], #v[0xCA#8, 0xDD#8, 0xAF#8, 0x02#8], #v[0x4A#8, 0x27#8, 0xDC#8, 0xA2#8]] ∧
    mixGroup #v[0xF2#8, 0x0A#8, 0x22#8, 0x5C#8] = #v[0x9F#8, 0xDC#8, 0x58#8, 0x9D#8] ∧ mixGroup #v[0x80#8, 0x00#8, 0x00#8, 0x00#8] = #v[0x1B#8, 0x80#8, 0x80#8, 0x9B#8] := by decide

/-- L2-KS-1 (words 4, 40 and 43), L2-KS-4 (word 43) and L2-KS-3 (word 20). -/
theorem test_key_schedule_vectors :
    (keyExpand defaultSboxTable zeroBlock)[4] = #v[0x62#8, 0x63#8, 0x63#8, 0x63#8] ∧ (keyExpand defaultSboxTable zeroBlock)[40] = #v[0xB4#8, 0xEF#8, 0x5B#8, 0xCB#8] ∧
    (keyExpand defaultSboxTable zeroBlock)[43] = #v[0x6F#8, 0x8F#8, 0x18#8, 0x8E#8] ∧
    (keyExpand defaultSboxTable #v[0x2B#8, 0x7E#8, 0x15#8, 0x16#8, 0x28#8, 0xAE#8, 0xD2#8, 0xA6#8, 0xAB#8, 0xF7#8, 0x15#8, 0x88#8, 0x09#8, 0xCF#8, 0x4F#8, 0x3C#8])[43] = #v[0xB6#8, 0x63#8, 0x0C#8, 0xA6#8] ∧
    (keyExpand defaultSboxTable #v[0x00#8, 0x01#8, 0x02#8, 0x03#8, 0x04#8, 0x05#8, 0x06#8, 0x07#8, 0x08#8, 0x09#8, 0x0A#8, 0x0B#8, 0x0C#8, 0x0D#8, 0x0E#8, 0x0F#8])[20] = #v[0x3C#8, 0xAA#8, 0xA3#8, 0xE8#8] := by decide +kernel

/-- The source's end-to-end vector L1-7. -/
theorem test_encrypt_source_vector :
    encryptBlock defaultSboxTable (keyExpand defaultSboxTable zeroBlock) #v[0x00#8, 0x00#8, 0x01#8, 0x01#8, 0x03#8, 0x03#8, 0x07#8, 0x07#8, 0x0F#8, 0x0F#8, 0x1F#8, 0x1F#8, 0x3F#8, 0x3F#8, 0x7F#8, 0x7F#8] =
      #v[0xC7#8, 0xD1#8, 0x24#8, 0x19#8, 0x48#8, 0x9E#8, 0x3B#8, 0x62#8, 0x33#8, 0xA2#8, 0xC5#8, 0xA7#8, 0xF4#8, 0x56#8, 0x31#8, 0x72#8] := by decide +kernel

/-- L2-CTRL-2, key 00 .. 0f, and the Appendix B vector of the spec's section 3. -/
theorem test_encrypt_other_key :
    encryptBlock defaultSboxTable (keyExpand defaultSboxTable #v[0x00#8, 0x01#8, 0x02#8, 0x03#8, 0x04#8, 0x05#8, 0x06#8, 0x07#8, 0x08#8, 0x09#8, 0x0A#8, 0x0B#8, 0x0C#8, 0x0D#8, 0x0E#8, 0x0F#8])
        #v[0x00#8, 0x01#8, 0x02#8, 0x03#8, 0x04#8, 0x05#8, 0x06#8, 0x07#8, 0x08#8, 0x09#8, 0x0A#8, 0x0B#8, 0x0C#8, 0x0D#8, 0x0E#8, 0x0F#8] =
      #v[0x0A#8, 0x94#8, 0x0B#8, 0xB5#8, 0x41#8, 0x6E#8, 0xF0#8, 0x45#8, 0xF1#8, 0xC3#8, 0x94#8, 0x58#8, 0xC6#8, 0x53#8, 0xEA#8, 0x5A#8] ∧
    encryptBlock defaultSboxTable (keyExpand defaultSboxTable #v[0x2B#8, 0x7E#8, 0x15#8, 0x16#8, 0x28#8, 0xAE#8, 0xD2#8, 0xA6#8, 0xAB#8, 0xF7#8, 0x15#8, 0x88#8, 0x09#8, 0xCF#8, 0x4F#8, 0x3C#8])
        #v[0x32#8, 0x43#8, 0xF6#8, 0xA8#8, 0x88#8, 0x5A#8, 0x30#8, 0x8D#8, 0x31#8, 0x31#8, 0x98#8, 0xA2#8, 0xE0#8, 0x37#8, 0x07#8, 0x34#8] =
      #v[0x39#8, 0x25#8, 0x84#8, 0x1D#8, 0x02#8, 0xDC#8, 0x09#8, 0xFB#8, 0xDC#8, 0x11#8, 0x85#8, 0x97#8, 0x19#8, 0x6A#8, 0x0B#8, 0x32#8] := by decide +kernel

/-! ### Commands -/

/-- L2-BUS-14: nothing changes, and no error while busy. -/
theorem test_nop :
    after .cmdNop idle id = some idle ∧
    after .cmdNop expanding id = some expanding := by decide

/-- L2-KS-6, the point "after acceptance": KEYEXP, KSIDX 4, STATUS 0x01, and word 1 is key row 1. -/
theorem test_load_key_accepted :
    after .cmdLoadKey (ready 16#8 false) (fun t => (t.fsm, t.ksidx, t.inCnt, statusByte t)) =
      some (.keyexp, 4#6, 0x00#8, 0x01#8) ∧
    after .cmdLoadKey (ready 16#8 false) (fun t => t.rk[1]) = some #v[0x04#8, 0x05#8, 0x06#8, 0x07#8] := by decide

/-- L2-ERR-1 and L2-ERR-2: KEY_LENGTH with 0 and with 17 bytes. -/
theorem test_load_key_length :
    after .cmdLoadKey idle errorRead = some (0x08#8, 0x01#8) ∧
    after .cmdLoadKey (ready 17#8 false) errorRead = some (0x08#8, 0x01#8) := by decide

/-- L2-CTRL-1 step 0: LOADED, RC 0, the block row by row, STATUS 0x05. -/
theorem test_encrypt_accepted :
    after .cmdEncrypt (ready 16#8 true) (fun t => (t.fsm, t.rc, t.inCnt, statusByte t)) =
      some (.loaded, 0#4, 0x00#8, 0x05#8) ∧
    after .cmdEncrypt (ready 16#8 true) (fun t => t.st[2]) = some #v[0x08#8, 0x09#8, 0x0A#8, 0x0B#8] := by decide

/-- L2-ERR-3, 4, 5 and 14: the length check comes before the key check. -/
theorem test_encrypt_errors :
    after .cmdEncrypt (ready 15#8 false) errorRead = some (0x08#8, 0x02#8) ∧
    after .cmdEncrypt (ready 16#8 false) errorRead = some (0x08#8, 0x03#8) ∧
    after .cmdEncrypt (ready 0#8 true) errorRead = some (0x0C#8, 0x02#8) := by decide

/-- L2-ERR-9, and L2-ERR-10: a later command leaves the first cause. -/
theorem test_decrypt :
    after .cmdDecrypt idle errorRead = some (0x08#8, 0x06#8) ∧
    after .cmdDecrypt (raise .illegalCmd idle) errorRead = some (0x08#8, 0x05#8) := by decide

/-- L2-RST-2 and L2-RST-4: every register of R43, from a busy state with registers set. -/
theorem test_soft_reset :
    after .cmdSoftReset used (fun t => (statusByte t, t.rc, t.ksidx, t.rkidx)) = some (0x00#8, 0#4, 0#6, 0#4) ∧
    after .cmdSoftReset used (fun t => (t.gfa, t.gfb, t.sbin, t.inCnt, t.out)) =
      some (0x00#8, 0x00#8, 0x00#8, 0x00#8, zeroBlock) := by decide

/-- L2-ERR-7, and L2-ERR-13: while busy the code is CMD_WHILE_BUSY. -/
theorem test_illegal :
    after (.cmdIllegal 0x42#8) idle errorRead = some (0x08#8, 0x05#8) ∧
    after (.cmdIllegal 0x42#8) expanding errorRead = some (0x08#8, 0x04#8) := by decide

/-! ### Reads -/

/-- L2-BUS-1 to L2-BUS-4: the reads of a reset block. -/
theorem test_read_after_reset :
    answer (.rdStatus 0x00#8) (idle) = some 0x00#8 ∧
    answer (.rdErrcode 0x00#8) (idle) = some 0x00#8 ∧
    answer (.rdFsm 0x00#8) (idle) = some 0x00#8 ∧
    answer (.rdInCnt 0x00#8) (idle) = some 0x00#8 ∧
    answer (.rdGfp 0x00#8) (idle) = some 0x00#8 ∧
    answer (.rdSbout 0x00#8) (idle) = some 0x63#8 ∧
    answer (.rdCmd 0x00#8) (idle) = some 0x00#8 ∧
    answer (.rdDin 0x00#8) (idle) = some 0x00#8 ∧
    answer (.rdReserved 0xFF#8 0x00#8) (idle) = some 0x00#8 := by decide

/-- STATUS 0x05, FSM 0x04, ROUNDCNT 5, KSIDX 44, RKIDX 7 mid ENCRYPT (R24, R28 to R31). -/
theorem test_read_counters :
    answer (.rdStatus 0x00#8) (used) = some 0x05#8 ∧
    answer (.rdFsm 0x00#8) (used) = some 0x04#8 ∧
    answer (.rdRoundcnt 0x00#8) (used) = some 0x05#8 ∧
    answer (.rdKsidx 0x00#8) (used) = some 0x2C#8 ∧
    answer (.rdRkidx 0x00#8) (used) = some 0x07#8 ∧
    answer (.rdInCnt 0x00#8) (used) = some 0xFF#8 := by decide

/-- L2-BUS-13, L2-SB-7: operands and results of the test ports; STATUS and ERRCODE in ERROR (L2-ERR-9). -/
theorem test_read_ports :
    answer (.rdGfa 0x00#8) (used) = some 0x57#8 ∧
    answer (.rdGfb 0x00#8) (used) = some 0x83#8 ∧
    answer (.rdGfp 0x00#8) (used) = some 0xC1#8 ∧
    answer (.rdSbin 0x00#8) (used) = some 0x53#8 ∧
    answer (.rdSbout 0x00#8) (used) = some 0xED#8 ∧
    answer (.rdStatus 0x00#8) (raise .unsupported idle) = some 0x08#8 ∧
    answer (.rdErrcode 0x00#8) (raise .unsupported idle) = some 0x06#8 ∧
    answer (.rdFsm 0x00#8) (raise .unsupported idle) = some 0x0F#8 := by decide

/-- R34 and R35: OUT byte 15; RKWIN byte 6 of round key 7 (word 29, byte 2); RKIDX 11 reads 0x00 (L2-BUS-10). -/
theorem test_read_windows :
    answer (.rdOut 15#4 0x00#8) (used) = some 0x0F#8 ∧
    answer (.rdRkwin 6#4 0x00#8) (used) = some 0x1D#8 ∧
    answer (.rdRkwin 6#4 0x00#8) { used with rkidx := 11#4 } = some 0x00#8 ∧
    answer (.rdRkwin 6#4 0x00#8) { used with rkidx := 11#4, keyValid := false } = some 0x00#8 := by decide

/-- L2-BUS-12: with no valid key an RKWIN read answers a free byte, drawn once. -/
theorem test_read_draws :
    after (.rdRkwin 0#4 0x00#8) idle (fun t => (t.reads, t.draws)) = some ([Config.freeByte 0], 1) := rfl

/-! ### Writes -/

/-- L2-BUS-7 and L2-BUS-8 at the edges: byte 15 is stored, byte 16 only counted, the count stops at 255 (R182). -/
theorem test_write_din :
    after (.wrDin 0xAB#8) (ready 15#8 false) (fun t => (t.ibuf[15], t.inCnt)) = some (0xAB#8, 16#8) ∧
    after (.wrDin 0xAB#8) (ready 16#8 false) (fun t => (t.ibuf, t.inCnt)) = some (countingBlock, 17#8) ∧
    after (.wrDin 0xAB#8) (ready 254#8 false) (fun t => (t.ibuf, t.inCnt)) = some (countingBlock, 255#8) ∧
    after (.wrDin 0xAB#8) (ready 255#8 false) (fun t => (t.ibuf, t.inCnt)) = some (countingBlock, 255#8) := by decide

/-- L2-BUS-9 and L2-BUS-11: only bits 3:0 are kept. -/
theorem test_write_rkidx :
    after (.wrRkidx 0x1B#8) idle (·.rkidx) = some 11#4 ∧
    after (.wrRkidx 0xF5#8) idle (·.rkidx) = some 5#4 := by decide

/-- R184: the whole byte, in ERROR too. -/
theorem test_write_ports :
    after (.wrGfa 0x57#8) idle (fun t => (t.gfa, t.gfb)) = some (0x57#8, 0x00#8) ∧
    after (.wrGfb 0x83#8) idle (fun t => (t.gfb, t.gfa)) = some (0x83#8, 0x00#8) ∧
    after (.wrSbin 0x53#8) (raise .noKey idle) (fun t => (t.sbin, t.fsm)) = some (0x53#8, .error) := by decide

/-- L2-BUS-5 and L2-BUS-6: nothing changes. -/
theorem test_write_ignored :
    after (.wrIgnored 0x0E#8 0x55#8) idle id = some idle ∧
    after (.wrIgnored 0x01#8 0xFF#8) used id = some used := by decide

/-! ### Controller steps -/

/-- L2-KS-5: word 4 of the zero key is 62636363, KSIDX goes on to 5 (L2-KS-6). -/
theorem test_keyexp_first :
    after (.ctrlKeyexp 0#4) expanding (fun t => (t.rk[4], t.rk[5], t.ksidx, t.fsm, t.keyValid)) =
      some (#v[0x62#8, 0x63#8, 0x63#8, 0x63#8], #v[0x00#8, 0x00#8, 0x00#8, 0x00#8], 5#6, .keyexp, false) := by decide

/-- L2-KS-6, step 40: word 43 from words 39 and 42 of L2-KS-1, KEY_VALID, IDLE, KSIDX 44. -/
theorem test_keyexp_last :
    after (.ctrlKeyexp 9#4)
        { expanding with
          ksidx := 43#6
          rk := (zeroSchedule.set 39 #v[0x4C#8, 0x66#8, 0x49#8, 0x41#8]).set 42 #v[0x23#8, 0xE9#8, 0x51#8, 0xCF#8] }
        (fun t => (t.rk[43], t.ksidx, t.fsm, t.keyValid)) =
      some (#v[0x6F#8, 0x8F#8, 0x18#8, 0x8E#8], 44#6, .idle, true) := by decide

/-- R152, by hand: 0x00 ^ 0xFF in row 0, 0x0F ^ 0xF0 in row 3; from (LOADED, 0) only. -/
theorem test_whiten :
    after .ctrlWhiten
        { piped .loaded 0#4 #v[#v[0x00#8, 0x01#8, 0x02#8, 0x03#8], #v[0x04#8, 0x05#8, 0x06#8, 0x07#8], #v[0x08#8, 0x09#8, 0x0A#8, 0x0B#8], #v[0x0C#8, 0x0D#8, 0x0E#8, 0x0F#8]] with
          rk := (zeroSchedule.set 0 #v[0xFF#8, 0xFF#8, 0xFF#8, 0xFF#8]).set 3 #v[0xF0#8, 0xF0#8, 0xF0#8, 0xF0#8] }
        (fun t => (t.st, t.rc, t.fsm)) =
      some (#v[#v[0xFF#8, 0xFE#8, 0xFD#8, 0xFC#8], #v[0x04#8, 0x05#8, 0x06#8, 0x07#8], #v[0x08#8, 0x09#8, 0x0A#8, 0x0B#8], #v[0xFC#8, 0xFD#8, 0xFE#8, 0xFF#8]], 1#4, .whitened) ∧
    after .ctrlWhiten (piped .loaded 1#4 zeroMatrix) id =
      some { piped .loaded 1#4 zeroMatrix with ctrlFault := some .unreachableDispatch } := by decide

/-- L2-CTRL-1, step 2: round 1 under round key 1. -/
theorem test_full_round_first :
    after .ctrlFullroundFirst
        { piped .whitened 1#4 #v[#v[0x00#8, 0x00#8, 0x01#8, 0x01#8], #v[0x03#8, 0x03#8, 0x07#8, 0x07#8], #v[0x0F#8, 0x0F#8, 0x1F#8, 0x1F#8], #v[0x3F#8, 0x3F#8, 0x7F#8, 0x7F#8]] with
          rk := ((((zeroSchedule.set 4 #v[0x62#8, 0x63#8, 0x63#8, 0x63#8]).set 5 #v[0x62#8, 0x63#8, 0x63#8, 0x63#8]).set 6 #v[0x62#8, 0x63#8, 0x63#8, 0x63#8]).set 7 #v[0x62#8, 0x63#8, 0x63#8, 0x63#8]) }
        (fun t => (t.st, t.rc, t.fsm)) =
      some (#v[#v[0x3B#8, 0x7F#8, 0x8D#8, 0xC2#8], #v[0xA0#8, 0xE5#8, 0x55#8, 0xB2#8], #v[0xA8#8, 0xBE#8, 0xCC#8, 0x61#8], #v[0x28#8, 0x44#8, 0xBF#8, 0xC1#8]], 2#4, .round) := by decide +kernel

/-- L2-CTRL-1, step 3: round 2 under round key 2. -/
theorem test_full_round_second :
    after (.ctrlFullround 2#4)
        { piped .round 2#4 #v[#v[0x3B#8, 0x7F#8, 0x8D#8, 0xC2#8], #v[0xA0#8, 0xE5#8, 0x55#8, 0xB2#8], #v[0xA8#8, 0xBE#8, 0xCC#8, 0x61#8], #v[0x28#8, 0x44#8, 0xBF#8, 0xC1#8]] with
          rk := ((((zeroSchedule.set 8 #v[0x9B#8, 0x98#8, 0x98#8, 0xC9#8]).set 9 #v[0xF9#8, 0xFB#8, 0xFB#8, 0xAA#8]).set 10 #v[0x9B#8, 0x98#8, 0x98#8, 0xC9#8]).set 11 #v[0xF9#8, 0xFB#8, 0xFB#8, 0xAA#8]) }
        (fun t => (t.st, t.rc, t.fsm)) =
      some (#v[#v[0x07#8, 0x76#8, 0xBD#8, 0x96#8], #v[0xE6#8, 0x61#8, 0xCA#8, 0x7D#8], #v[0x43#8, 0xBC#8, 0xA2#8, 0xBC#8], #v[0xEF#8, 0x80#8, 0xD4#8, 0x1D#8]], 3#4, .round) := by decide +kernel

/-- L2-CTRL-1, step 11: the final round under round key 10, no MixColumns. -/
theorem test_final_round :
    after .ctrlFinalround
        { piped .round 10#4 #v[#v[0x8F#8, 0xE5#8, 0xE7#8, 0x8F#8], #v[0x0F#8, 0xD1#8, 0x4C#8, 0xF7#8], #v[0x7C#8, 0x81#8, 0x6B#8, 0x55#8], #v[0xE8#8, 0xCC#8, 0xE5#8, 0x7F#8]] with
          rk := ((((zeroSchedule.set 40 #v[0xB4#8, 0xEF#8, 0x5B#8, 0xCB#8]).set 41 #v[0x3E#8, 0x92#8, 0xE2#8, 0x11#8]).set 42 #v[0x23#8, 0xE9#8, 0x51#8, 0xCF#8]).set 43 #v[0x6F#8, 0x8F#8, 0x18#8, 0x8E#8]) }
        (fun t => (t.st, t.rc, t.fsm)) =
      some (#v[#v[0xC7#8, 0xD1#8, 0x24#8, 0x19#8], #v[0x48#8, 0x9E#8, 0x3B#8, 0x62#8], #v[0x33#8, 0xA2#8, 0xC5#8, 0xA7#8], #v[0xF4#8, 0x56#8, 0x31#8, 0x72#8]], 11#4, .final) := by decide +kernel

/-- L2-CTRL-1, step 12: OUT is the State row by row, DONE, STATUS 0x06, RC stays 11. -/
theorem test_serialize :
    after .ctrlSerialize (piped .final 11#4 #v[#v[0xC7#8, 0xD1#8, 0x24#8, 0x19#8], #v[0x48#8, 0x9E#8, 0x3B#8, 0x62#8], #v[0x33#8, 0xA2#8, 0xC5#8, 0xA7#8], #v[0xF4#8, 0x56#8, 0x31#8, 0x72#8]])
        (fun t => (t.out, statusByte t, t.rc)) =
      some (#v[0xC7#8, 0xD1#8, 0x24#8, 0x19#8, 0x48#8, 0x9E#8, 0x3B#8, 0x62#8, 0x33#8, 0xA2#8, 0xC5#8, 0xA7#8, 0xF4#8, 0x56#8, 0x31#8, 0x72#8], 0x06#8, 11#4) := by decide

/-- R159: no step is enabled in IDLE and ERROR. -/
theorem test_quiescent :
    after (.ctrlNoneIdle 7#4) idle id = some idle ∧
    after (.ctrlNoneError 0#4) (raise .noKey idle) id = some (raise .noKey idle) := by decide

/-- CTRL stuck after the dispatch pair (LOADED, 1). -/
def stuck : State := { piped .loaded 1#4 zeroMatrix with ctrlFault := some .unreachableDispatch }

/-- R160: the fault is recorded and nothing else changes. U7: CTRL is then stuck, whatever the pair. -/
theorem test_unreachable :
    after (.ctrlUnreachable .loaded 1#4) (piped .loaded 1#4 zeroMatrix) id = some stuck ∧
    after (.ctrlUnreachable .loaded 1#4) stuck id = some stuck ∧
    after .ctrlWhiten { stuck with rc := 0#4 } id = some { stuck with rc := 0#4 } := by decide

/-- U7 stops CTRL alone: HOST still reads STATUS, and SOFT_RESET and the reset input still have R240's effect. -/
theorem test_host_goes_on :
    answer (.rdStatus 0x00#8) stuck = some 0x05#8 ∧
    after .cmdSoftReset stuck (fun t => (t.fsm, t.rc, t.keyValid)) = some (.idle, 0#4, false) ∧
    stepOnce { stuck with turns := [.reset] } (fun t => (t.fsm, t.rc, t.keyValid)) = some (.idle, 0#4, false) := by decide

/-! ### The step -/

/-- A bus turn, then CTRL's turn in KEYEXP, then the reset input (R60, R77, R190). -/
theorem test_step_runs_the_turns_in_order :
    stepOnce { idle with turns := [.bus 0x10957#17, .ctrl] } (fun t => (t.gfa, t.turns)) = some (0x57#8, [.ctrl]) ∧
    stepOnce { expanding with turns := [.ctrl] } (fun t => (t.ksidx, t.turns)) = some (5#6, []) ∧
    stepOnce { expanding with turns := [.reset] } (fun t => (t.ksidx, t.fsm, t.turns)) = some (0#6, .idle, []) ∧
    stepOnce expanding (fun t => t.ksidx) = some 5#6 := by decide

/-- A placed transaction word is what the first step after reset runs (log 8). -/
theorem test_fetch_word_transaction :
    stepOnce (State.reset.withFetchWord 24 0x10C53) (fun t => (t.sbin, t.turns)) = some (0x53#8, []) ∧
    stepOnce (State.reset.withFetchWord 24 0x00D00) (fun t => t.reads) = some [0x63#8] := by decide

/-- A placed key sets (fsm, RC) and takes CTRL's turn (log 8). -/
theorem test_fetch_word_dispatch :
    stepOnce (State.reset.withFetchWord 16 0x010) (fun t => (t.ksidx, t.fsm)) = some (5#6, .keyexp) ∧
    stepOnce (State.reset.withFetchWord 16 0x04A) (fun t => (t.rc, t.fsm)) = some (11#4, .final) ∧
    stepOnce (State.reset.withFetchWord 16 0x0F3) (fun t => (t.rc, t.fsm)) = some (3#4, .error) ∧
    stepOnce (State.reset.withFetchWord 16 0x021) (fun t => (t.fsm, t.ctrlFault)) =
      some (.loaded, some .unreachableDispatch) ∧
    stepOnce (State.withFetchWord stuck 16 0x020) (fun t => (t.fsm, t.ctrlFault)) = some (.whitened, none) := by
  refine ⟨?_, ?_, ?_, ?_, ?_⟩ <;> rfl

/-! ### Witnesses: states and operands that meet the hypotheses of each statement, one for each of its clauses -/

/-- DecodeOfEncodeIsIdentity, at the ends of the checked ranges. -/
theorem witness_DecodeOfEncodeIsIdentity :
    Instr.wf (.cmdIllegal 0xFF#8) = true ∧ Instr.wf (.ctrlFullround 9#4) = true ∧
    Instr.wf (.ctrlUnreachable .final 15#4) = true ∧ Instr.wf (.rdReserved 0x30#8 0xFF#8) = true := by decide

/-- EncodeOfDecodeIsIdentity. -/
theorem witness_EncodeOfDecodeIsIdentity :
    (decode [0x57#8, 0x09#8, 0x01#8] = .ok (.wrGfa 0x57#8)) ∧ (decode [0x4A#8, 0x00#8] = .ok .ctrlFinalround) := by
  refine ⟨?_, ?_⟩ <;> rfl

/-- BusTurnRunsTheDecodedTransaction. -/
theorem witness_BusTurnRunsTheDecodedTransaction :
    State.turns { idle with turns := [.bus 0x10957#17] } = [.bus 0x10957#17] ∧
    (decode (transactionBytes 0x10957#17) = .ok (.wrGfa 0x57#8)) := by
  refine ⟨?_, ?_⟩ <;> rfl

/-- ControllerTurnRunsTheDispatchedStep: a listed turn, and none. -/
theorem witness_ControllerTurnRunsTheDispatchedStep :
    (decode (keyWord expanding.fsm expanding.rc) = .ok (.ctrlKeyexp 0#4)) ∧ expanding.turns = [] ∧
    State.turns { expanding with turns := [.ctrl, .reset] } = [.ctrl, .reset] := by
  refine ⟨?_, ?_, ?_⟩ <;> rfl

/-- ResetInputAndSoftResetSetEveryRegister: a reset turn in a busy state. -/
theorem witness_ResetInputAndSoftResetSetEveryRegister :
    State.turns { used with turns := [.reset] } = [.reset] ∧ busy used.fsm = true := by decide

/-- EveryReadAnswersItsRegister: a read with a value, and one that draws. -/
theorem witness_EveryReadAnswersItsRegister :
    Instr.wf (.rdOut 15#4 0x00#8) = true ∧ Instr.readsFrom (.rdOut 15#4 0x00#8) = some 0x1F#8 ∧
    registerValue 0x1F#8 used = some 0x0F#8 ∧
    Instr.wf (.rdRkwin 0#4 0x00#8) = true ∧ Instr.readsFrom (.rdRkwin 0#4 0x00#8) = some 0x20#8 ∧
    registerValue 0x20#8 idle = none := by decide

/-- RepeatedReadsAgree: both reads complete. -/
theorem witness_RepeatedReadsAgree :
    Instr.wf (.rdGfp 0x00#8) = true ∧ Instr.readsFrom (.rdGfp 0x00#8) = some 0x0B#8 ∧
    registerValue 0x0B#8 used ≠ none ∧
    exec (.rdGfp 0x00#8) used = .next { used with reads := [0xC1#8] } ∧
    exec (.rdGfp 0x00#8) { used with reads := [0xC1#8] } = .next { used with reads := [0xC1#8, 0xC1#8] } := by
  refine ⟨?_, ?_, ?_, ?_, ?_⟩ <;> first | rfl | decide

/-- StatusReadShowsTheFlags: both sides of each bit. -/
theorem witness_StatusReadShowsTheFlags :
    (used.fsm ≠ .idle ∧ used.fsm ≠ .error) ∧ ¬(idle.fsm ≠ .idle ∧ idle.fsm ≠ .error) ∧
    (raise .noKey idle).fsm = .error ∧ used.fsm ≠ .error := by decide

/-- RkwinShowsTheSelectedRoundKey: selectors 10 and 11, and no valid key. -/
theorem witness_RkwinShowsTheSelectedRoundKey :
    (State.rkidx { used with rkidx := 10#4 }).toNat ≤ 10 ∧ used.keyValid = true ∧
    11 ≤ (State.rkidx { used with rkidx := 11#4 }).toNat ∧ 11 ≤ (State.rkidx { used with rkidx := 15#4 }).toNat ∧
    (State.rkidx { idle with rkidx := 10#4 }).toNat ≤ 10 ∧ idle.keyValid = false := by decide

/-- RkwinShowsTheSelectedRoundKey, the write clause. -/
theorem witness_RkwinShowsTheSelectedRoundKey_write :
    decode (writeWord (2#4 ++ 15#4) 0xFF#8) = .ok (.wrIgnored 0x2F#8 0xFF#8) := rfl

/-- DinWriteAppendsAndCounts: counts 15, 16, 254 and 255. -/
theorem witness_DinWriteAppendsAndCounts :
    (ready 15#8 false).inCnt.toNat < 16 ∧ 16 ≤ (ready 16#8 false).inCnt.toNat ∧
    (ready 254#8 false).inCnt.toNat < 255 ∧ (ready 255#8 false).inCnt.toNat = 255 := by decide

/-- WritesToReadOnlyAddressesAreIgnored: the last listed address, and the ends of the range from 0x10. -/
theorem witness_WritesToReadOnlyAddressesAreIgnored :
    (0x0F#8 ∈ [0x01#8, 0x02#8, 0x04#8, 0x05#8, 0x06#8, 0x07#8, 0x0B#8, 0x0D#8, 0x0E#8, 0x0F#8]) ∧
    16 ≤ (0x10#8).toNat ∧ 16 ≤ (0xFF#8).toNat := by decide

/-- CommandWriteFollowsTheDispatchOrder: the CMD write decodes, and a state for each branch of the order. -/
theorem witness_CommandWriteFollowsTheDispatchOrder :
    (decode (writeWord 0x00#8 0x01#8) = .ok .cmdLoadKey) ∧ (decode (writeWord 0x00#8 0x04#8) = .ok (.cmdIllegal 0x04#8)) ∧
    (raise .noKey idle).fsm = .error ∧ (expanding.fsm ≠ .error ∧ expanding.fsm ≠ .idle) ∧
    (ready 15#8 true).inCnt ≠ 16#8 ∧ (ready 17#8 true).inCnt ≠ 16#8 ∧
    ((ready 16#8 true).fsm = .idle ∧ (ready 16#8 true).inCnt = 16#8 ∧ (ready 16#8 true).keyValid = true) ∧
    (ready 16#8 false).keyValid = false := by
  refine ⟨rfl, rfl, ?_⟩; decide

/-- LoadKeyAcceptedStartsTheExpansion. -/
theorem witness_LoadKeyAcceptedStartsTheExpansion :
    (ready 16#8 false).fsm = .idle ∧ (ready 16#8 false).inCnt = 16#8 := by decide

/-- LoadKeyRaisesKeyLength: 15 and 17 bytes. -/
theorem witness_LoadKeyRaisesKeyLength :
    (ready 15#8 false).fsm = .idle ∧ (ready 15#8 false).inCnt ≠ 16#8 ∧
    (ready 17#8 true).fsm = .idle ∧ (ready 17#8 true).inCnt ≠ 16#8 := by decide

/-- EncryptAcceptedLoadsTheBlock. -/
theorem witness_EncryptAcceptedLoadsTheBlock :
    (ready 16#8 true).fsm = .idle ∧ (ready 16#8 true).inCnt = 16#8 ∧ (ready 16#8 true).keyValid = true := by decide

/-- EncryptRaisesBlockLengthOrNoKey: both clauses. -/
theorem witness_EncryptRaisesBlockLengthOrNoKey :
    (ready 17#8 true).fsm = .idle ∧ (ready 17#8 true).inCnt ≠ 16#8 ∧
    (ready 16#8 false).fsm = .idle ∧ (ready 16#8 false).inCnt = 16#8 ∧ (ready 16#8 false).keyValid = false := by decide

/-- DecryptRaisesUnsupported. -/
theorem witness_DecryptRaisesUnsupported : idle.fsm = .idle := by decide

/-- ReservedCommandRaisesIllegalCmd: the ends of the two ranges of reserved bytes. -/
theorem witness_ReservedCommandRaisesIllegalCmd :
    (0x04#8 ∉ [0x00#8, 0x01#8, 0x02#8, 0x03#8, 0x0F#8]) ∧ (0x0E#8 ∉ [0x00#8, 0x01#8, 0x02#8, 0x03#8, 0x0F#8]) ∧
    (0x10#8 ∉ [0x00#8, 0x01#8, 0x02#8, 0x03#8, 0x0F#8]) ∧ (0xFF#8 ∉ [0x00#8, 0x01#8, 0x02#8, 0x03#8, 0x0F#8]) ∧
    idle.fsm = .idle := by decide

/-- CommandWhileBusyAbandonsTheOperation: a command and a reserved byte, mid expansion and mid encryption. -/
theorem witness_CommandWhileBusyAbandonsTheOperation :
    busy expanding.fsm = true ∧ busy used.fsm = true ∧ (decode (writeWord 0x00#8 0x02#8) = .ok .cmdEncrypt) ∧
    (decode (writeWord 0x00#8 0x42#8) = .ok (.cmdIllegal 0x42#8)) := by
  refine ⟨?_, ?_, ?_, ?_⟩ <;> rfl

/-- CommandWhileBusyAbandonsTheOperation: the instruction answers a next state. -/
theorem witness_CommandWhileBusyAbandonsTheOperation_next :
    exec .cmdEncrypt used = .next { used with errcode := .cmdWhileBusy, fsm := .error } := rfl

/-- ErrorEntryChangesOnlyFsmAndErrcode. -/
theorem witness_ErrorEntryChangesOnlyFsmAndErrcode :
    exec .cmdDecrypt idle = .next { idle with errcode := .unsupported, fsm := .error } ∧ idle.fsm ≠ .error := by
  refine ⟨?_, ?_⟩ <;> first | rfl | decide

/-- OnlyCommandsWriteErrcode: an error entry and a SOFT_RESET. -/
theorem witness_OnlyCommandsWriteErrcode :
    after .cmdDecrypt idle (·.errcode) = some .unsupported ∧ idle.errcode ≠ .unsupported ∧
    after .cmdSoftReset (raise .noKey idle) (·.errcode) = some .none ∧ (raise .noKey idle).errcode ≠ .none := by decide

/-- CommandsAreIgnoredInError. -/
theorem witness_CommandsAreIgnoredInError :
    (raise .noKey idle).fsm = .error ∧ Instr.isGatedCommand .cmdLoadKey = true ∧
    Instr.isGatedCommand (.cmdIllegal 0x10#8) = true := by decide

/-- OnlyResetLeavesError: the reset input, SOFT_RESET, and a turn that is neither. -/
theorem witness_OnlyResetLeavesError :
    State.resetNext { raise .noKey used with turns := [.reset] } ∧
    State.resetNext { raise .noKey used with turns := [.bus 0x1000F#17] } ∧
    ¬ State.resetNext { raise .noKey used with turns := [.bus 0x10001#17] } ∧
    step { raise .noKey used with turns := [.bus 0x10001#17] } = .next (raise .noKey used) := by
  refine ⟨⟨[], .inl rfl⟩, ⟨[], .inr rfl⟩, ?_, rfl⟩
  rintro ⟨ts, h | h⟩ <;> simp at h

/-- KeyExpansionStepComputesOneWord: word 4 (rotated), word 43 (not rotated, the last), word 40. -/
theorem witness_KeyExpansionStepComputesOneWord :
    (expanding.ctrlFault = none ∧ expanding.fsm = .keyexp ∧ expanding.ksidx.toNat = 4 ∧ 4 % 4 = 0) ∧
    (State.ksidx { expanding with ksidx := 43#6 }).toNat = 43 ∧ 43 % 4 ≠ 0 ∧
    (State.ksidx { expanding with ksidx := 40#6 }).toNat = 40 ∧ 40 % 4 = 0 := by decide

/-- WhiteningStepMixesRoundKeyZero. -/
theorem witness_WhiteningStepMixesRoundKeyZero :
    (piped .loaded 0#4 zeroMatrix).ctrlFault = none ∧ (piped .loaded 0#4 zeroMatrix).fsm = .loaded ∧ (piped .loaded 0#4 zeroMatrix).rc = 0#4 := by decide

/-- FullRoundStepAppliesTheFourTransforms: rounds 1, 2 and 9. -/
theorem witness_FullRoundStepAppliesTheFourTransforms :
    (piped .whitened 1#4 zeroMatrix).ctrlFault = none ∧ (piped .round 2#4 zeroMatrix).ctrlFault = none ∧
    (piped .round 9#4 zeroMatrix).ctrlFault = none ∧
    ((piped .whitened 1#4 zeroMatrix).fsm = .whitened ∧ (piped .whitened 1#4 zeroMatrix).rc = 1#4) ∧
    ((piped .round 2#4 zeroMatrix).fsm = .round ∧ 2 = (piped .round 2#4 zeroMatrix).rc.toNat) ∧
    ((piped .round 9#4 zeroMatrix).fsm = .round ∧ 9 = (piped .round 9#4 zeroMatrix).rc.toNat) := by decide

/-- FinalRoundStepOmitsMixColumns. -/
theorem witness_FinalRoundStepOmitsMixColumns :
    (piped .round 10#4 zeroMatrix).ctrlFault = none ∧ (piped .round 10#4 zeroMatrix).fsm = .round ∧ (piped .round 10#4 zeroMatrix).rc = 10#4 := by decide

/-- SerializeStepWritesOut. -/
theorem witness_SerializeStepWritesOut :
    (piped .final 11#4 zeroMatrix).ctrlFault = none ∧ (piped .final 11#4 zeroMatrix).fsm = .final ∧
    (piped .final 11#4 zeroMatrix).rc = 11#4 := by decide

/-- NoControllerStepInIdleOrError: both states, no turn listed. -/
theorem witness_NoControllerStepInIdleOrError :
    idle.turns = [] ∧ busy idle.fsm = false ∧ (raise .noKey idle).turns = [] ∧
    busy (raise .noKey idle).fsm = false := by decide

/-- UnreachableDispatchPairsStopTheController: the values next to the reachable ones, and a stuck state. -/
theorem witness_UnreachableDispatchPairsStopTheController :
    stuck.ctrlFault ≠ none ∧ Instr.isControllerStep .ctrlWhiten = true ∧ stepOnce stuck id = some stuck ∧
    (1#4 : BitVec 4) ≠ 0#4 ∧ (0#4 : BitVec 4) ≠ 1#4 ∧ (2#4 : BitVec 4) ≠ 1#4 ∧ (10#4 : BitVec 4) ≠ 11#4 ∧
    (12#4 : BitVec 4) ≠ 11#4 ∧ ¬(2 ≤ (1#4).toNat ∧ (1#4).toNat ≤ 10) ∧ ¬(2 ≤ (11#4).toNat ∧ (11#4).toNat ≤ 10) := by
  decide

/-- OnlyUnreachableDispatchStopsTheController: a state for each of its reasons, which no run from reset reaches, and the
states next to them, where no fault is recorded. -/
theorem witness_OnlyUnreachableDispatchStopsTheController :
    stepOnce (piped .loaded 1#4 zeroMatrix) (·.ctrlFault) = some (some .unreachableDispatch) ∧
    stepOnce { expanding with ksidx := 44#6 } (·.ctrlFault) = some (some .unreachableDispatch) ∧
    stepOnce { expanding with ksidx := 3#6 } (·.ctrlFault) = some (some .unreachableDispatch) ∧
    stepOnce (piped .loaded 0#4 zeroMatrix) (·.ctrlFault) = some none ∧
    stepOnce { expanding with ksidx := 43#6 } (·.ctrlFault) = some none := by decide

/-- ControllerStepsLeaveHostRegisters: an encryption step, so the clause on the table applies too. -/
theorem witness_ControllerStepsLeaveHostRegisters :
    Instr.isControllerStep .ctrlSerialize = true ∧
    exec .ctrlSerialize (piped .final 11#4 zeroMatrix) =
      .next { piped .final 11#4 zeroMatrix with out := toBlock zeroMatrix, done := true, fsm := .idle } ∧
    (piped .final 11#4 zeroMatrix).fsm ≠ .keyexp := by
  refine ⟨?_, ?_, ?_⟩ <;> first | rfl | decide

/-- RegisterTransactionsLeaveTheDatapath: a read, a DIN write and NOP. -/
theorem witness_RegisterTransactionsLeaveTheDatapath :
    (Turn.bus 0x00100#17).sparesOperation = true ∧ (Turn.bus 0x103FF#17).sparesOperation = true ∧
    (Turn.bus 0x10000#17).sparesOperation = true ∧ (Turn.bus 0x1000F#17).sparesOperation = false := by decide

/-- RconDoubles: the first and the last index. -/
theorem witness_RconDoubles : 0 + 1 < 10 ∧ 8 + 1 < 10 := by decide

/-- SboxHasTheSourceValues, and every statement that assumes MeetsSource: R95's table meets the source. -/
theorem default_meets_source : MeetsSource defaultSboxTable where
  values := by
    have h : (sourceSboxValues.all fun p => sbox defaultSboxTable p.1 == p.2) = true := by decide
    simpa using h
  endToEnd := by decide +kernel

/-- SboxHasTheSourceValues. -/
theorem witness_SboxHasTheSourceValues : MeetsSource defaultSboxTable := default_meets_source

/-- SboxRomIsNeverWritten: an instruction and a run that change something. -/
theorem witness_SboxRomIsNeverWritten :
    exec (.wrGfa 0x57#8) idle = .next { idle with gfa := 0x57#8 } ∧
    Host.Core.run Sys2Proof.core 1 { idle with turns := [.bus 0x10957#17] } = .next { idle with gfa := 0x57#8 } := by
  refine ⟨?_, ?_⟩ <;> rfl

/-- The table that maps every byte to itself. -/
def identityTable : SboxTable := Vector.ofFn fun h => Vector.ofFn fun l => BitVec.ofNat 8 (16 * h.val + l.val)

/-- LaneTransformsAreBijective: a permutation, and two matrices with one image, so equal. -/
theorem witness_LaneTransformsAreBijective :
    (∀ a b : Byte, sbox identityTable a = sbox identityTable b → a = b) ∧
    subBytes identityTable zeroMatrix = subBytes identityTable (toMatrix zeroBlock) := by
  have h : ∀ a : Byte, sbox identityTable a = a := by decide +kernel
  exact ⟨fun a b e => by simpa only [h] using e, by decide⟩

/-- MixColumnsIsLinearAndFixesConstants: a sum of two matrices, and a constant group. -/
theorem witness_MixColumnsIsLinearAndFixesConstants :
    (∀ (r c : Nat) (hr : r < 4) (hc : c < 4), zeroMatrix[r][c] = (toMatrix countingBlock)[r][c] ^^^ (toMatrix countingBlock)[r][c]) ∧
    zeroMatrix[3] = #v[0x00#8, 0x00#8, 0x00#8, 0x00#8] := by
  refine ⟨?_, by decide⟩
  intro r c hr hc
  simp [zeroMatrix]

/-- ShiftRowsPermutesOffsets: the last offset, where two positions with one entry are the same position. -/
theorem witness_ShiftRowsPermutesOffsets : 15 < 16 ∧
    (#v[0, 5, 10, 15, 4, 9, 14, 3, 8, 13, 2, 7, 12, 1, 6, 11] : Vector (Fin 16) 16)[15] = 11 := by decide

/-- KeyExpandMeetsItsRecurrence: the first and the last index. -/
theorem witness_KeyExpandMeetsItsRecurrence : (4 ≤ 4 ∧ 4 < 44) ∧ (4 ≤ 43 ∧ 43 < 44) := by decide

/-- EncryptBlockIsTheRoundPipeline: the first and the last full round. -/
theorem witness_EncryptBlockIsTheRoundPipeline : (1 ≤ 1 ∧ 1 ≤ 9) ∧ (1 ≤ 9 ∧ 9 ≤ 9) := by decide

/-- The zero key's schedule follows the schedule's rule. -/
theorem ready_follows : FollowsSchedule defaultSboxTable (ready 16#8 true).rk 44 :=
  expandWords_follows _ 40 (by decide)

/-- A state with a valid key that meets the invariant. -/
theorem ready_inv : (ready 16#8 true).Inv where
  keyexp := by decide
  pipeline := by decide
  loaded := by decide
  whitened := by decide
  round := by decide
  final := by decide
  error := by decide
  rcBound := by decide
  ksidxBound := by decide
  keyValidDone := by decide
  doneRc := by decide
  schedule := fun _ => ready_follows
  partialSchedule := fun h => by simp [ready, idle] at h
  rom := default_meets_source
  noFault := rfl

/-- A state in the middle of LOAD_KEY that meets the invariant. -/
theorem expanding_inv : expanding.Inv where
  keyexp := by decide
  pipeline := by decide
  loaded := by decide
  whitened := by decide
  round := by decide
  final := by decide
  error := by decide
  rcBound := by decide
  ksidxBound := by decide
  keyValidDone := by decide
  doneRc := by decide
  schedule := fun h => by simp [expanding, idle] at h
  partialSchedule := fun _ => followsSchedule_four _
  rom := default_meets_source
  noFault := rfl

/-- ResetMeetsTheInvariant and NoRunFromResetStops: a table the source allows. -/
theorem witness_NoRunFromResetStops : MeetsSource defaultSboxTable := default_meets_source

/-- InvariantStatesAlwaysStep: a state with a valid key. -/
theorem witness_InvariantStatesAlwaysStep : (ready 16#8 true).Inv := ready_inv

/-- EveryStepKeepsTheInvariant: from KEYEXP, where CTRL moves. -/
theorem witness_EveryStepKeepsTheInvariant : expanding.Inv ∧
    stepOnce expanding (fun t => t.ksidx) = some 5#6 := ⟨expanding_inv, by decide⟩

/-- RoundKeyTableIsImmutableWhileValid: a step from a valid key to a valid key that changes something. -/
theorem witness_RoundKeyTableIsImmutableWhileValid :
    State.Inv { ready 16#8 true with turns := [.bus 0x10002#17] } ∧
    stepOnce { ready 16#8 true with turns := [.bus 0x10002#17] } (fun t => (t.keyValid, t.fsm)) =
      some (true, .loaded) :=
  ⟨⟨ready_inv.keyexp, ready_inv.pipeline, ready_inv.loaded, ready_inv.whitened, ready_inv.round, ready_inv.final,
    ready_inv.error, ready_inv.rcBound, ready_inv.ksidxBound, ready_inv.keyValidDone, ready_inv.doneRc,
    ready_inv.schedule, ready_inv.partialSchedule, ready_inv.rom, ready_inv.noFault⟩, by decide⟩

/-- OutIsWrittenOnlyBySerializeAndReset: both ways OUT changes. -/
theorem witness_OutIsWrittenOnlyBySerializeAndReset :
    stepOnce (piped .final 11#4 (toMatrix countingBlock)) (·.out) = some countingBlock ∧
    (piped .final 11#4 (toMatrix countingBlock)).out ≠ countingBlock ∧
    stepOnce { used with turns := [.reset] } (·.out) = some zeroBlock ∧ used.out ≠ zeroBlock := by decide

/-- FlagsAreWrittenOnlyByTheirSteps: each of its four changes happens. -/
theorem witness_FlagsAreWrittenOnlyByTheirSteps :
    (expanding.keyValid = false ∧ stepOnce { expanding with ksidx := 43#6 } (·.keyValid) = some true) ∧
    ((ready 16#8 true).keyValid = true ∧
      stepOnce { ready 16#8 true with turns := [.bus 0x10001#17] } (·.keyValid) = some false) ∧
    ((piped .final 11#4 zeroMatrix).done = false ∧ stepOnce (piped .final 11#4 zeroMatrix) (·.done) = some true) ∧
    stepOnce { ready 16#8 true with done := true, turns := [.bus 0x10002#17] } (·.done) = some false := by decide

/-- StepIsStillExactlyWhenTheRunHasEnded: a state that has ended, one that has not, and one where CTRL is stuck. -/
theorem witness_StepIsStillExactlyWhenTheRunHasEnded :
    (idle.ended ∧ idle.ctrlFault = none) ∧ (¬ expanding.ended ∧ expanding.ctrlFault = none) ∧
    (stuck.turns = [] ∧ stuck.ctrlFault ≠ none ∧ busy stuck.fsm = true) :=
  ⟨⟨⟨rfl, rfl⟩, rfl⟩, ⟨fun h => absurd h.2 (by decide), rfl⟩, by decide⟩

/-- ControllerAloneFinishesWithinFortySteps: the longest operation, from its first step. -/
theorem witness_ControllerAloneFinishesWithinFortySteps :
    expanding.Inv ∧ expanding.turns = [] ∧ expanding.fsm ≠ .error := ⟨expanding_inv, by decide, by decide⟩

/-- LoadKeyComputesTheKeyExpansion: exactly 40 controller turns and a STATUS read among them. -/
theorem witness_LoadKeyComputesTheKeyExpansion :
    let s : State := { ready 16#8 false with turns := .bus 0x00100#17 :: List.replicate 40 .ctrl }
    s.ctrlFault = none ∧ s.fsm = .idle ∧ s.inCnt = 16#8 ∧ (∀ x ∈ s.turns, x = .ctrl ∨ x.sparesOperation = true) ∧
    40 ≤ s.turns.count .ctrl := by decide

/-- EncryptComputesTheCiphertext: exactly 12 controller turns and a DIN write among them. -/
theorem witness_EncryptComputesTheCiphertext :
    let s : State := { ready 16#8 true with turns := .bus 0x103FF#17 :: List.replicate 12 .ctrl }
    s.ctrlFault = none ∧ s.fsm = .idle ∧ s.inCnt = 16#8 ∧ s.keyValid = true ∧ (∀ x ∈ s.turns, x = .ctrl ∨ x.sparesOperation = true) ∧
    12 ≤ s.turns.count .ctrl := by decide

/-- EncryptNeedsTwelveControllerSteps: 11 controller turns. -/
theorem witness_EncryptNeedsTwelveControllerSteps :
    let s : State := { ready 16#8 true with turns := .bus 0x103FF#17 :: List.replicate 11 .ctrl }
    s.ctrlFault = none ∧ s.fsm = .idle ∧ s.inCnt = 16#8 ∧ s.keyValid = true ∧ (∀ x ∈ s.turns, x = .ctrl ∨ x.sparesOperation = true) ∧
    s.turns.count .ctrl < 12 := by decide

end Sys2Proof.Tests
end

section
/-! SUPPORT. Runs of the machine: a run unrolled into its first step and the rest, and the induction that carries what
every step keeps to a run of any length. -/

namespace Sys2Proof.Machine

/-- A run of `n + 1` steps is a step that answers a next state, and a run of `n` steps from there. -/
theorem run_succ_eq_next {n : Nat} {s t : State} :
    Host.Core.run Sys2Proof.core (n + 1) s = .next t ↔
      ∃ u, step s = .next u ∧ Host.Core.run Sys2Proof.core n u = .next t := by
  have hcore : Sys2Proof.core.step = step := rfl
  simp only [Host.Core.run, hcore]
  cases step s <;> simp

/-- What every step keeps, a run of any length keeps. -/
theorem run_keeps {P : State → Prop} (hstep : ∀ s t, step s = .next t → P s → P t) (n : Nat) {s t : State}
    (h : Host.Core.run Sys2Proof.core n s = .next t) (hs : P s) : P t := by
  induction n generalizing s with
  | zero => cases h; exact hs
  | succ n ih =>
    obtain ⟨u, hu, hrun⟩ := run_succ_eq_next.mp h
    exact ih hrun (hstep s u hu hs)

end Sys2Proof.Machine
end

section
/-! The SBox ROM: it is never written (R94), and it holds the values the source fixes (R96). -/

namespace Sys2Proof.Machine

/-- No step writes the SBox ROM, a reset turn included (R94, R61). -/
theorem step_sboxRom {s t : State} (h : step s = .next t) : t.sboxRom = s.sboxRom := by
  rcases step_cases s with ⟨_, e⟩ | ⟨_, _, e⟩ | ⟨_, _, _, e⟩ <;> rw [e] at h
  · simpa using exec_sboxRom h
  · cases h; simp
  · simpa using exec_sboxRom h

/-- Settles O43: each instruction leaves the ROM alone, and so does each step, so a run does by induction on its
length. -/
theorem sboxRomIsNeverWritten : Obligations.SboxRomIsNeverWritten := by
  refine ⟨fun _ _ _ h => exec_sboxRom h, fun n s t h => ?_⟩
  exact run_keeps (P := fun u => u.sboxRom = s.sboxRom) (fun _ _ hstep hu => (step_sboxRom hstep).trans hu) n h rfl

/-- Settles O42: the ten values are the entries of `sourceSboxValues`, and R95's table is known to meet the source. -/
theorem sboxHasTheSourceValues : Obligations.SboxHasTheSourceValues := by
  refine ⟨fun table hsource => ?_, Tests.default_meets_source⟩
  simpa [sourceSboxValues] using hsource.values

end Sys2Proof.Machine
end

section
/-! SUPPORT. The invariant taken apart: what it asks of the registers in every controller state, and what it asks in
each controller state. -/

namespace Sys2Proof.Machine

/-- What `State.Inv` asks in every controller state. -/
structure State.RegInv (s : State) : Prop where
  rcBound : s.rc.toNat ≤ 11
  ksidxBound : s.ksidx = 0#6 ∨ (4 ≤ s.ksidx.toNat ∧ s.ksidx.toNat ≤ 44)
  keyValidDone : s.keyValid = true → s.ksidx = 44#6
  doneRc : s.done = true → s.rc = 11#4
  schedule : s.keyValid = true → FollowsSchedule s.sboxRom s.rk 44
  rom : MeetsSource s.sboxRom
  noFault : s.ctrlFault = none

/-- What `State.Inv` asks in the controller state `s` is in (R42, R117). -/
def State.FsmInv (s : State) : Prop :=
  match s.fsm with
  | .idle => s.errcode = .none
  | .error => s.errcode ≠ .none
  | .keyexp => s.errcode = .none ∧ s.keyValid = false ∧ (4 ≤ s.ksidx.toNat ∧ s.ksidx.toNat < 44) ∧
      FollowsSchedule s.sboxRom s.rk s.ksidx.toNat
  | .loaded => s.errcode = .none ∧ s.keyValid = true ∧ s.done = false ∧ s.rc = 0#4
  | .whitened => s.errcode = .none ∧ s.keyValid = true ∧ s.done = false ∧ s.rc = 1#4
  | .round => s.errcode = .none ∧ s.keyValid = true ∧ s.done = false ∧ 2 ≤ s.rc.toNat ∧ s.rc.toNat ≤ 10
  | .final => s.errcode = .none ∧ s.keyValid = true ∧ s.done = false ∧ s.rc = 11#4

/-- The invariant is its two parts. -/
theorem inv_iff {s : State} : s.Inv ↔ s.RegInv ∧ s.FsmInv := by
  constructor
  · intro h
    refine ⟨{ h with }, ?_⟩
    have herr : s.fsm ≠ .error → s.errcode = .none := fun hf => by simpa [hf] using h.error
    unfold State.FsmInv
    split
    case h_1 hf => exact herr (by simp [hf])
    case h_2 hf => exact h.error.mp hf
    case h_3 hf =>
      obtain ⟨hk, hrange⟩ := h.keyexp hf
      exact ⟨herr (by simp [hf]), hk, hrange, h.partialSchedule hf⟩
    case h_4 hf =>
      obtain ⟨hk, hd⟩ := h.pipeline (by simp [hf])
      exact ⟨herr (by simp [hf]), hk, hd, h.loaded hf⟩
    case h_5 hf =>
      obtain ⟨hk, hd⟩ := h.pipeline (by simp [hf])
      exact ⟨herr (by simp [hf]), hk, hd, h.whitened hf⟩
    case h_6 hf =>
      obtain ⟨hk, hd⟩ := h.pipeline (by simp [hf])
      exact ⟨herr (by simp [hf]), hk, hd, h.round hf⟩
    case h_7 hf =>
      obtain ⟨hk, hd⟩ := h.pipeline (by simp [hf])
      exact ⟨herr (by simp [hf]), hk, hd, h.final hf⟩
  · rintro ⟨hr, hf⟩
    unfold State.FsmInv at hf
    exact { hr with
      keyexp := fun e => by simp only [e] at hf; exact ⟨hf.2.1, hf.2.2.1⟩
      pipeline := by rintro (e | e | e | e) <;> (simp only [e] at hf; exact ⟨hf.2.1, hf.2.2.1⟩)
      loaded := fun e => by simp only [e] at hf; exact hf.2.2.2
      whitened := fun e => by simp only [e] at hf; exact hf.2.2.2
      round := fun e => by simp only [e] at hf; exact hf.2.2.2
      final := fun e => by simp only [e] at hf; exact hf.2.2.2
      error := by cases e : s.fsm <;> simp_all
      partialSchedule := fun e => by simp only [e] at hf; exact hf.2.2.2 }

/-- The invariant says nothing of the input buffer, the test ports, the turns to come or what HOST has read. -/
theorem State.Inv.congr {s t : State} (h : s.Inv) (ht : t = { s with
    ibuf := t.ibuf, inCnt := t.inCnt, rkidx := t.rkidx, gfa := t.gfa, gfb := t.gfb, sbin := t.sbin
    turns := t.turns, reads := t.reads, draws := t.draws }) : t.Inv := by
  rw [ht]; exact { h with }

/-- A state as a reset leaves it meets the invariant, if the source allows its ROM and CTRL has met no fault (R240). -/
theorem inv_of_cleared {s : State} (hf : s.fsm = .idle) (he : s.errcode = .none) (hd : s.done = false)
    (hk : s.keyValid = false) (hr : s.rc = 0#4) (hi : s.ksidx = 0#6) (hrom : MeetsSource s.sboxRom)
    (hn : s.ctrlFault = none) : s.Inv := by
  refine inv_iff.mpr ⟨?_, by simp only [State.FsmInv, hf, he]⟩
  exact { rcBound := by simp [hr], ksidxBound := .inl hi, keyValidDone := by simp [hk], doneRc := by simp [hd]
          schedule := by simp [hk], rom := hrom, noFault := hn }

/-- An iteration of the expansion keeps the invariant: one more word of the table follows the schedule (R113, R117). -/
theorem expandStep_inv {s : State} (hs : s.Inv) (hf : s.fsm = .keyexp) (h : 4 ≤ s.ksidx.toNat ∧ s.ksidx.toNat < 44) :
    (expandStep s h).Inv := by
  obtain ⟨hreg, hfsm⟩ := inv_iff.mp hs
  simp only [State.FsmInv, hf] at hfsm
  obtain ⟨herr, hk, -, hfol⟩ := hfsm
  have hnext := followsSchedule_set s.rk s.ksidx.toNat h hfol
  by_cases h43 : s.ksidx = 43#6
  · have h44 : s.ksidx.toNat + 1 = 44 := by simp [h43]
    rw [expandStep_last s h h43]
    refine inv_iff.mpr ⟨?_, herr⟩
    exact { hreg with
      ksidxBound := .inr (by simp)
      keyValidDone := fun _ => rfl
      schedule := fun _ => by simpa only [h44] using hnext }
  · have hlt : s.ksidx.toNat < 43 := by bv_omega
    have hsucc : (s.ksidx + 1#6).toNat = s.ksidx.toNat + 1 := by bv_omega
    rw [expandStep_inner s h h43]
    refine inv_iff.mpr ⟨?_, ?_⟩
    · exact { hreg with
        ksidxBound := .inr (by simp only [hsucc]; omega)
        keyValidDone := by simp [hk]
        schedule := by simp [hk] }
    · simp only [State.FsmInv, hf, hsucc]
      exact ⟨herr, hk, by omega, hnext⟩

/-- Everything an instruction can do keeps the invariant, but for recording a fault. -/
theorem Effect.keeps_inv {i : Instr} {s t : State} (h : Effect i s t) (hs : s.Inv) (hn : t.ctrlFault = none) :
    t.Inv := by
  obtain ⟨hreg, hfsm⟩ := inv_iff.mp hs
  cases h with
  | still => exact hs
  | port _ _ _ _ _ _ ht => exact hs.congr (by rw [ht])
  | faulted => cases hn
  | raised _ _ e _ _ he => exact inv_iff.mpr ⟨{ hreg with }, he⟩
  | reset => exact inv_of_cleared rfl rfl rfl rfl rfl rfl hreg.rom hreg.noFault
  | loadKey _ hi =>
    simp only [State.FsmInv, hi] at hfsm
    refine inv_iff.mpr ⟨?_, hfsm, rfl, by simp, followsSchedule_four _⟩
    exact { hreg with ksidxBound := .inr (by simp), keyValidDone := nofun, schedule := nofun }
  | encrypt _ hi _ hk =>
    simp only [State.FsmInv, hi] at hfsm
    exact inv_iff.mpr ⟨{ hreg with rcBound := by simp, doneRc := nofun }, hfsm, hk, rfl, rfl⟩
  | expand _ _ _ hf hrange => exact expandStep_inv hs hf hrange
  | whiten _ _ hf =>
    simp only [State.FsmInv, hf] at hfsm
    obtain ⟨herr, hk, hd, -⟩ := hfsm
    exact inv_iff.mpr ⟨{ hreg with rcBound := by simp, doneRc := by simp [hd] }, herr, hk, hd, rfl⟩
  | fullRound _ _ _ _ n h1 h9 hr hf =>
    obtain ⟨herr, hk, hd⟩ : s.errcode = .none ∧ s.keyValid = true ∧ s.done = false := by
      split at hf <;> (simp only [State.FsmInv, hf] at hfsm; exact ⟨hfsm.1, hfsm.2.1, hfsm.2.2.1⟩)
    have hsucc : (s.rc + 1#4).toNat = s.rc.toNat + 1 := by bv_omega
    refine inv_iff.mpr ⟨?_, herr, hk, hd, ?_⟩
    · exact { hreg with rcBound := by simp only [hsucc]; omega, doneRc := by simp [hd] }
    · simp only [hsucc]; omega
  | finalRound _ _ hf =>
    simp only [State.FsmInv, hf] at hfsm
    obtain ⟨herr, hk, hd, -⟩ := hfsm
    exact inv_iff.mpr ⟨{ hreg with rcBound := by simp, doneRc := by simp [hd] }, herr, hk, hd, rfl⟩
  | serialize _ _ hf hr =>
    simp only [State.FsmInv, hf] at hfsm
    exact inv_iff.mpr ⟨{ hreg with doneRc := fun _ => hr }, hfsm.1⟩

end Sys2Proof.Machine
end

section
/-! SUPPORT. One step of the machine: the instruction it makes, and that CTRL's turn records no fault in a state the
rules dispatch a step from. -/

namespace Sys2Proof.Machine

/-! ### The words of three commands -/

/-- A bus word is its three fields (R71). -/
theorem transactionWord_fields (w : BitVec 17) (hrw : w.extractLsb' 16 1 = 1#1) :
    w = transactionWord true (w.extractLsb' 8 8) (w.extractLsb' 0 8) := by
  apply BitVec.eq_of_getLsbD_eq
  intro i hi
  have h16 : w.getLsbD 16 = true := by simpa using congrArg (·.getLsbD 0) hrw
  simp only [transactionWord, BitVec.getLsbD_append, BitVec.getLsbD_extractLsb']
  rcases (by omega : i < 8 ∨ (8 ≤ i ∧ i < 16) ∨ i = 16) with h | h | h
  · simp [h]
  · simp [show ¬ i < 8 by omega, show i - 8 < 8 by omega, show 8 + (i - 8) = i by omega]
  · subst h; simp [h16]

/-- Each byte is a command of its own (R74, R75). -/
theorem decodeCommand_injective {c d : Byte} (h : decodeCommand c = decodeCommand d) : c = d := by
  unfold decodeCommand at h
  split_ifs at h <;> simp_all

/-- A write to another address than 0 is no command (R76). -/
theorem decodeWrite_ne_command {a v c : Byte} (ha : a ≠ 0x00#8) : decodeWrite a v ≠ decodeCommand c := by
  simp only [decodeWrite, ha, ↓reduceIte]
  unfold decodeCommand
  split_ifs <;> simp

/-- The one word of a command writes its byte to address 0 (R71, R74, R76). -/
theorem word_of_command {w : BitVec 17} {c : Byte} (h : decodeTransaction w = decodeCommand c) :
    w = transactionWord true 0x00#8 c := by
  unfold decodeTransaction at h
  split at h
  · next hrw =>
    by_cases ha : w.extractLsb' 8 8 = 0x00#8
    · have hc : w.extractLsb' 0 8 = c := decodeCommand_injective (by rw [← h, ha]; rfl)
      rw [← ha, ← hc]
      exact transactionWord_fields w hrw
    · exact absurd h (decodeWrite_ne_command ha)
  · have hread : (decodeCommand c).readsFrom = some (w.extractLsb' 8 8) := h ▸ decodeRead_readsFrom _ _
    have hwrite : (decodeCommand c).readsFrom = none := (decodeWrite_kind 0x00#8 c).1
    simp [hwrite] at hread

/-! ### The instruction of a step -/

/-- The next turn of `s` makes the instruction `i`; the reset input makes what SOFT_RESET makes (R188, R190). -/
inductive State.Makes (s : State) : Instr → Prop where
  | ctrl (h : s.ctrlNext) : s.Makes (decodeDispatch s.fsm s.rc)
  | reset (ts : List Turn) (h : s.turns = .reset :: ts) : s.Makes .cmdSoftReset
  | bus (w : BitVec 17) (ts : List Turn) (h : s.turns = .bus w :: ts) : s.Makes (decodeTransaction w)

/-- A step runs the instruction its turn makes, on the state with that turn taken off the list. -/
theorem step_makes (s : State) : ∃ i, s.Makes i ∧ step s = exec i { s with turns := s.turns.tail } := by
  rcases step_cases s with ⟨hc, e⟩ | ⟨ts, ht, e⟩ | ⟨w, ts, ht, e⟩
  · exact ⟨_, .ctrl hc, e⟩
  · exact ⟨_, .reset ts ht, by simp only [e, ht]; rfl⟩
  · exact ⟨_, .bus w ts ht, by simp only [e, ht]; rfl⟩

/-- What a step that answers a next state did to the state. -/
theorem step_effect {s t : State} (h : step s = .next t) :
    ∃ i, s.Makes i ∧ Effect i { s with turns := s.turns.tail } t := by
  obtain ⟨i, hi, e⟩ := step_makes s
  exact ⟨i, hi, exec_effect (e ▸ h)⟩

/-- A controller step is made on CTRL's turn (R60, R70). -/
theorem State.Makes.ctrlNext {s : State} {i : Instr} (h : s.Makes i) (hc : i.isControllerStep = true) : s.ctrlNext := by
  cases h with
  | ctrl h => exact h
  | reset => cases hc
  | bus w => simp [decodeTransaction_not_controller] at hc

/-- SOFT_RESET's effect is made on a reset turn (R188, R190). -/
theorem State.Makes.resetNext {s : State} {i : Instr} (h : s.Makes i) (hi : i = .cmdSoftReset) : s.resetNext := by
  cases h with
  | ctrl => have := decodeDispatch_controller s.fsm s.rc; rw [hi] at this; cases this
  | reset ts ht => exact ⟨ts, .inl ht⟩
  | bus w ts ht =>
    have hw : w = 0x1000F#17 := word_of_command (c := 0x0F#8) hi
    exact ⟨ts, .inr (hw ▸ ht)⟩

/-- Another command is made on the turn of its word (R74). -/
theorem State.Makes.command {s : State} {i : Instr} (h : s.Makes i) {c : Byte} (hi : i = decodeCommand c)
    (hc : c ≠ 0x0F#8) : ∃ ts, s.turns = .bus (transactionWord true 0x00#8 c) :: ts := by
  cases h with
  | ctrl =>
    have hctrl := decodeDispatch_controller s.fsm s.rc
    have hbus : (decodeCommand c).isControllerStep = false := (decodeWrite_kind 0x00#8 c).2
    simp [hi, hbus] at hctrl
  | reset => exact absurd (decodeCommand_injective (c := 0x0F#8) hi).symm hc
  | bus w ts ht => exact ⟨ts, word_of_command hi ▸ ht⟩

/-! ### When CTRL records no fault -/

/-- Dispatched from a pair that is not unreachable, and in KEYEXP with KSIDX in range, a CTRL that is not stuck records
no fault (R77, R113, R160). -/
theorem dispatch_records_no_fault {s t : State} (hn : s.ctrlFault = none)
    (hpair : isUnreachablePair s.fsm s.rc = false)
    (hrange : s.fsm = .keyexp → 4 ≤ s.ksidx.toNat ∧ s.ksidx.toNat < 44)
    (h : exec (decodeDispatch s.fsm s.rc) s = .next t) : t.ctrlFault = none := by
  cases hf : s.fsm with
  | idle | error => rw [hf] at h; cases h; exact hn
  | keyexp =>
    rw [hf] at h; cases h
    rw [unlessStuck_of_none _ _ hn]
    rcases expandOrRecord_cases s with ⟨_, _, e⟩ | ⟨hnot, _⟩
    · rw [e]; exact hn
    · exact absurd ⟨hf, hrange hf⟩ hnot
  | loaded =>
    have hr : s.rc = 0#4 := by simpa [hf, isUnreachablePair] using hpair
    rw [hf, hr] at h; cases h
    rw [whenDispatched_of _ _ _ s hn hf hr]; exact hn
  | whitened =>
    have hr : s.rc = 1#4 := by simpa [hf, isUnreachablePair] using hpair
    rw [hf, hr] at h; cases h
    rw [whenDispatched_of _ _ _ s hn hf hr]; exact hn
  | round =>
    have hr : 2 ≤ s.rc.toNat ∧ s.rc.toNat ≤ 10 := by simpa [hf, isUnreachablePair, BitVec.le_def] using hpair
    by_cases h9 : s.rc.toNat ≤ 9
    · have hd : decodeDispatch .round s.rc = .ctrlFullround s.rc := by simp [decodeDispatch, BitVec.le_def, hr, h9]
      rw [hf, hd] at h
      simp only [exec, execCtrlFullround, hr.1, h9, and_self, ↓reduceDIte] at h
      cases h
      rw [whenDispatched_of _ _ _ s hn hf rfl]; exact hn
    · have hr10 : s.rc = 10#4 := by bv_omega
      rw [hf, hr10] at h; cases h
      rw [whenDispatched_of _ _ _ s hn hf hr10]; exact hn
  | final =>
    have hr : s.rc = 11#4 := by simpa [hf, isUnreachablePair] using hpair
    rw [hf, hr] at h; cases h
    rw [whenDispatched_of _ _ _ s hn hf hr]; exact hn

/-- The invariant shuts out the unreachable pairs (R160). -/
theorem State.Inv.reachablePair {s : State} (h : s.Inv) : isUnreachablePair s.fsm s.rc = false := by
  cases hf : s.fsm with
  | idle | keyexp | error => rfl
  | loaded => simp [isUnreachablePair, h.loaded hf]
  | whitened => simp [isUnreachablePair, h.whitened hf]
  | round => simpa [isUnreachablePair, BitVec.le_def] using h.round hf
  | final => simp [isUnreachablePair, h.final hf]

/-- Only a controller step records a fault (U7). -/
theorem Effect.ctrlFault_eq {i : Instr} {s t : State} (h : Effect i s t) (hc : i.isControllerStep = false) :
    t.ctrlFault = s.ctrlFault := by
  cases h with
  | port _ _ _ _ _ _ ht => rw [ht]
  | faulted _ _ hctrl => simp [hc] at hctrl
  | _ => rfl

/-- A step from a state with the invariant records no fault. -/
theorem State.Inv.step_ctrlFault {s t : State} (hs : s.Inv) (h : step s = .next t) : t.ctrlFault = none := by
  obtain ⟨i, hi, e⟩ := step_makes s
  rw [e] at h
  cases hi with
  | ctrl =>
    exact dispatch_records_no_fault (s := { s with turns := s.turns.tail }) hs.noFault hs.reachablePair
      (fun hf => (hs.keyexp hf).2) h
  | reset => exact ((exec_effect h).ctrlFault_eq rfl).trans hs.noFault
  | bus w => exact ((exec_effect h).ctrlFault_eq (decodeTransaction_not_controller w)).trans hs.noFault

end Sys2Proof.Machine
end

section
/-! The invariant (R42): reset meets it, every step keeps it, and what it gives of a step. -/

namespace Sys2Proof.Machine

/-- Settles O48: in the cleared state every clause but the ROM's is about a register the reset fixes. -/
theorem resetMeetsTheInvariant : Obligations.ResetMeetsTheInvariant := by
  have hreset (table : SboxTable) (h : MeetsSource table) : State.Inv { State.reset with sboxRom := table } :=
    inv_of_cleared rfl rfl rfl rfl rfl rfl h rfl
  exact ⟨hreset defaultSboxTable Tests.default_meets_source, hreset⟩

/-- Settles O49: a step is one instruction's effect, and each effect but recording a fault keeps the invariant. -/
theorem everyStepKeepsTheInvariant : Obligations.EveryStepKeepsTheInvariant := by
  intro s t hs h
  obtain ⟨i, -, he⟩ := step_effect h
  exact he.keeps_inv (hs.congr rfl) (hs.step_ctrlFault h)

/-- Settles O50: every instruction answers a next state, and from a state with the invariant CTRL records no fault. -/
theorem invariantStatesAlwaysStep : Obligations.InvariantStatesAlwaysStep := by
  intro s hs
  obtain ⟨i, -, e⟩ := step_makes s
  obtain ⟨t, ht⟩ := exec_next i { s with turns := s.turns.tail }
  have h : step s = .next t := e.trans ht
  exact ⟨t, h, hs.step_ctrlFault h⟩

/-- A key that is valid before and after an instruction keeps its table, if no expansion runs (R37, R61). -/
theorem Effect.rk_eq {i : Instr} {s t : State} (h : Effect i s t) (hs : s.fsm ≠ .keyexp) (ht : t.keyValid = true) :
    t.rk = s.rk := by
  cases h with
  | port _ _ _ _ _ _ hp => rw [hp]
  | reset | loadKey => cases ht
  | expand _ _ _ hf => exact absurd hf hs
  | _ => rfl

/-- Settles O52: RK is written by LOAD_KEY and a reset, which leave no valid key, and by the expansion, which runs only
while there is none. -/
theorem roundKeyTableIsImmutableWhileValid : Obligations.RoundKeyTableIsImmutableWhileValid := by
  intro s t hs h hsv htv
  obtain ⟨i, -, he⟩ := step_effect h
  have hf : s.fsm ≠ .keyexp := fun hf => by simp [(hs.keyexp hf).1] at hsv
  exact he.rk_eq hf htv

end Sys2Proof.Machine
end

section
/-! Who writes OUT, DONE and KEY_VALID (R34, R41), and what a register transaction leaves alone (R57, R182, R249). -/

namespace Sys2Proof.Machine

/-- OUT is written by the serialize step and by a reset (R34). -/
theorem Effect.out_changed {i : Instr} {s t : State} (h : Effect i s t) (hne : t.out ≠ s.out) :
    (i = .cmdSoftReset ∧ t.out = Vector.ofFn fun _ => 0x00#8) ∨
    (i = .ctrlSerialize ∧ s.fsm = .final ∧ s.rc = 11#4 ∧ t.done = true ∧ t.out = toBlock s.st) := by
  cases h with
  | reset => exact .inl ⟨rfl, rfl⟩
  | serialize _ _ hf hr => exact .inr ⟨rfl, hf, hr, rfl, rfl⟩
  | port _ _ _ _ _ _ ht => exact absurd (by rw [ht]) hne
  | _ => exact absurd rfl hne

/-- KEY_VALID is set by the last iteration of the expansion (R41, R113). -/
theorem Effect.keyValid_set {i : Instr} {s t : State} (h : Effect i s t) (hs : s.keyValid = false)
    (ht : t.keyValid = true) :
    i.isControllerStep = true ∧ s.fsm = .keyexp ∧ s.ksidx = 43#6 ∧ t.fsm = .idle := by
  cases h with
  | expand _ _ _ hf hrange =>
    by_cases h43 : s.ksidx = 43#6
    · exact ⟨rfl, hf, h43, by rw [expandStep_last s hrange h43]⟩
    · rw [expandStep_inner s hrange h43] at ht; simp [hs] at ht
  | port _ _ _ _ _ _ hp => rw [hp] at ht; simp [hs] at ht
  | reset | loadKey => cases ht
  | _ => exact absurd (hs.symm.trans ht) (by decide)

/-- KEY_VALID is cleared by an accepted LOAD_KEY and by a reset (R41, R111). -/
theorem Effect.keyValid_cleared {i : Instr} {s t : State} (h : Effect i s t) (hs : s.keyValid = true)
    (ht : t.keyValid = false) : i = .cmdSoftReset ∨ (i = .cmdLoadKey ∧ s.fsm = .idle ∧ t.fsm = .keyexp) := by
  cases h with
  | reset => exact .inl rfl
  | loadKey _ hi => exact .inr ⟨rfl, hi, rfl⟩
  | expand _ _ _ _ hrange => simp [expandStep, hs] at ht
  | port _ _ _ _ _ _ hp => rw [hp] at ht; simp [hs] at ht
  | _ => exact absurd (hs.symm.trans ht) (by decide)

/-- DONE is set by the serialize step (R41, R157). -/
theorem Effect.done_set {i : Instr} {s t : State} (h : Effect i s t) (hs : s.done = false) (ht : t.done = true) :
    i.isControllerStep = true ∧ s.fsm = .final ∧ s.rc = 11#4 ∧ t.fsm = .idle := by
  cases h with
  | serialize _ _ hf hr => exact ⟨rfl, hf, hr, rfl⟩
  | port _ _ _ _ _ _ hp => rw [hp] at ht; simp [hs] at ht
  | reset | encrypt => cases ht
  | _ => exact absurd (hs.symm.trans ht) (by decide)

/-- DONE is cleared by an accepted ENCRYPT and by a reset (R41, R150). -/
theorem Effect.done_cleared {i : Instr} {s t : State} (h : Effect i s t) (hs : s.done = true) (ht : t.done = false) :
    i = .cmdSoftReset ∨ (i = .cmdEncrypt ∧ s.fsm = .idle ∧ t.fsm = .loaded) := by
  cases h with
  | reset => exact .inl rfl
  | encrypt _ hi => exact .inr ⟨rfl, hi, rfl⟩
  | port _ _ _ _ _ _ hp => rw [hp] at ht; simp [hs] at ht
  | serialize => cases ht
  | _ => exact absurd (hs.symm.trans ht) (by decide)

/-- Settles O53: of the effects only serialize's and reset's write OUT, and each belongs to its own turn. -/
theorem outIsWrittenOnlyBySerializeAndReset : Obligations.OutIsWrittenOnlyBySerializeAndReset := by
  intro s t h hne
  obtain ⟨i, hi, he⟩ := step_effect h
  rcases he.out_changed hne with ⟨hreset, hout⟩ | ⟨hser, hf, hr, hd, hout⟩
  · exact .inr ⟨hi.resetNext hreset, fun k hk => by simp [hout]⟩
  · exact .inl ⟨hi.ctrlNext (hser ▸ rfl), hf, hr, hd, hout⟩

/-- Settles O54: each of the four changes is one effect's, or a reset's, and that effect belongs to its own turn. -/
theorem flagsAreWrittenOnlyByTheirSteps : Obligations.FlagsAreWrittenOnlyByTheirSteps := by
  intro s t h
  obtain ⟨i, hi, he⟩ := step_effect h
  refine ⟨fun hs ht => ?_, fun hs ht => ?_, fun hs ht => ?_, fun hs ht => ?_⟩
  · obtain ⟨hc, hrest⟩ := he.keyValid_set hs ht
    exact ⟨hi.ctrlNext hc, hrest⟩
  · rcases he.keyValid_cleared hs ht with hreset | ⟨hload, hf, hf'⟩
    · exact .inl (hi.resetNext hreset)
    · exact .inr ⟨hf, hf', hi.command (c := 0x01#8) hload (by decide)⟩
  · obtain ⟨hc, hrest⟩ := he.done_set hs ht
    exact ⟨hi.ctrlNext hc, hrest⟩
  · rcases he.done_cleared hs ht with hreset | ⟨henc, hf, hf'⟩
    · exact .inl (hi.resetNext hreset)
    · exact .inr ⟨hf, hf', hi.command (c := 0x02#8) henc (by decide)⟩

/-- An instruction that is no command but NOP and no controller step is a register transaction or does nothing. -/
theorem Effect.port_of_register {i : Instr} {s t : State} (h : Effect i s t) (hg : i.isGatedCommand = false)
    (hr : i ≠ .cmdSoftReset) (hc : i.isControllerStep = false) : t = { s with
      ibuf := t.ibuf, inCnt := t.inCnt, rkidx := t.rkidx, gfa := t.gfa, gfb := t.gfb, sbin := t.sbin
      reads := t.reads, draws := t.draws } := by
  cases h with
  | still => rfl
  | port _ _ _ _ _ _ ht => exact ht
  | reset => exact absurd rfl hr
  | raised _ _ _ hcmd => simp [hg] at hcmd
  | loadKey | encrypt => cases hg
  | faulted _ _ hctrl | fullRound _ _ _ hctrl => simp [hc] at hctrl
  | expand | whiten | finalRound | serialize => cases hc

/-- Settles O38: a word that spares the operation has a register transaction's effect or none. -/
theorem registerTransactionsLeaveTheDatapath : Obligations.RegisterTransactionsLeaveTheDatapath := by
  intro w s hw
  obtain ⟨hg, hr⟩ : (decodeTransaction w).isGatedCommand = false ∧ decodeTransaction w ≠ .cmdSoftReset := by
    simpa [Turn.sparesOperation] using hw
  obtain ⟨t, ht⟩ := exec_next (decodeTransaction w) s
  have hport := (exec_effect ht).port_of_register hg hr (decodeTransaction_not_controller w)
  obtain ⟨hfsm, hrc, hks, hdone, hkv, herr, hout, hst, hrk, hrom, hfault⟩ := port_leaves_datapath hport
  exact ⟨t, ht, hfsm, hrc, hks, hdone, hkv, herr, hst, hrk, hout, hrom, hfault, exec_turns ht⟩

end Sys2Proof.Machine
end

section
/-! What STATUS and RKWIN read as (R24, R35). -/

namespace Sys2Proof.Machine

/-! ### STATUS, bit by bit -/

/-- The byte's bits are the flags, whatever their values (R24). -/
theorem statusByte_bits (s : State) :
    (statusByte s).getLsbD 0 = busy s.fsm ∧ (statusByte s).getLsbD 1 = s.done ∧
    (statusByte s).getLsbD 2 = s.keyValid ∧ (statusByte s).getLsbD 3 = err s.fsm ∧
    (statusByte s).extractLsb' 4 4 = 0#4 := by
  unfold statusByte
  generalize err s.fsm = e
  generalize s.keyValid = k
  generalize s.done = d
  generalize busy s.fsm = b
  revert e k d b
  decide

/-- Settles O10: the byte's bits are the four flags, and `fsm` is not at once ERROR and another state. -/
theorem statusReadShowsTheFlags : Obligations.StatusReadShowsTheFlags := by
  intro s d
  obtain ⟨h0, h1, h2, h3, hhigh⟩ := statusByte_bits s
  have hbusy : (statusByte s).getLsbD 0 = true ↔ s.fsm ≠ .idle ∧ s.fsm ≠ .error := by rw [h0, busy_eq_true_iff]
  have herr : (statusByte s).getLsbD 3 = true ↔ s.fsm = .error := by rw [h3, err_eq_true_iff]
  exact ⟨statusByte s, rfl, hbusy, h1, h2, herr, hhigh, fun ⟨hb, he⟩ => (hbusy.mp hb).2 (herr.mp he)⟩

/-! ### RKWIN -/

theorem rkwinByte_of_valid (s : State) (k : BitVec 4) (h : s.rkidx.toNat ≤ 10) (hk : s.keyValid = true) :
    rkwinByte s k = some (roundKeyByte s.rk s.rkidx.toNat h k) := by simp [rkwinByte, h, hk]

theorem rkwinByte_of_gt (s : State) (k : BitVec 4) (h : 11 ≤ s.rkidx.toNat) : rkwinByte s k = some 0x00#8 := by
  simp [rkwinByte, show ¬ s.rkidx.toNat ≤ 10 by omega]

theorem rkwinByte_of_invalid (s : State) (k : BitVec 4) (h : s.rkidx.toNat ≤ 10) (hk : s.keyValid = false) :
    rkwinByte s k = none := by simp [rkwinByte, h, hk]

/-- A write to the window is ignored (R189). -/
theorem decodeWrite_rkwin (k : BitVec 4) (d : Byte) : decodeWrite (2#4 ++ k) d = .wrIgnored (2#4 ++ k) d :=
  decodeWrite_ignored _ _ (by revert k; decide)

/-- Settles O11: a read answers `rkwinByte`, in each of its three cases, and a write decodes to WR_IGNORED. -/
theorem rkwinShowsTheSelectedRoundKey : Obligations.RkwinShowsTheSelectedRoundKey := by
  intro k d s
  have hread : exec (.rdRkwin k d) s = .next (respondOrDraw (rkwinByte s k) s) := rfl
  rw [hread]
  refine ⟨fun h hk => ?_, fun h => ?_, fun h hk => ?_, fun i hi => ?_⟩
  · rw [rkwinByte_of_valid s k h hk]; rfl
  · rw [rkwinByte_of_gt s k h]; rfl
  · exact ⟨Config.freeByte s.draws, by rw [rkwinByte_of_invalid s k h hk]; rfl⟩
  · rw [decode_writeWord, decodeWrite_rkwin] at hi
    cases hi; rfl

end Sys2Proof.Machine
end

section
/-! What a read transaction does (R57, R76), and that a second read of the same address answers the same byte. -/

namespace Sys2Proof.Machine

/-- A read answers the byte R76 gives for its address, or a fresh one where the rule gives none (R35, R57). -/
theorem exec_read {i : Instr} {a : Byte} (s : State) (hwf : i.wf = true) (ha : i.readsFrom = some a) :
    exec i s = .next (respondOrDraw (registerValue a s) s) := by
  cases i with
  | rdOut k d => cases ha; rw [registerValue_out]; rfl
  | rdRkwin k d => cases ha; rw [registerValue_rkwin]; rfl
  | rdReserved b d => cases ha; rw [registerValue_reserved _ _ hwf]; rfl
  | rdCmd | rdStatus | rdErrcode | rdDin | rdInCnt | rdFsm | rdRoundcnt | rdKsidx | rdRkidx | rdGfa | rdGfb | rdGfp
  | rdSbin | rdSbout => cases ha; rfl
  | _ => cases ha

/-- Where R76 gives a byte the read answers that byte. -/
theorem exec_read_of_value {i : Instr} {a v : Byte} (s : State) (hwf : i.wf = true) (ha : i.readsFrom = some a)
    (hv : registerValue a s = some v) : exec i s = .next (respond v s) := by
  rw [exec_read s hwf ha, hv]; rfl

/-- What HOST has read is no register of the block, so the answer to a read changes no register's value (R57). -/
@[simp] theorem registerValue_respond (a v : Byte) (s : State) :
    registerValue a (respond v s) = registerValue a s := rfl

/-- Settles O9: the first read leaves the register's value as it was, so the second read answers the same byte. -/
theorem repeatedReadsAgree : Obligations.RepeatedReadsAgree := by
  intro i a s t u hwf ha hvalue hfirst hsecond
  obtain ⟨v, hv⟩ := Option.ne_none_iff_exists'.mp hvalue
  rw [exec_read_of_value s hwf ha hv] at hfirst
  cases hfirst
  rw [exec_read_of_value _ hwf ha ((registerValue_respond a v s).trans hv)] at hsecond
  cases hsecond
  exact ⟨v, rfl⟩

end Sys2Proof.Machine
end

section
/-! Decode and encode are inverse (R71, R77): the encoder of a decoded row gives back its word or key, and every
accepted string of bytes is a word or a key. -/

namespace Sys2Proof

/-! ### Decode after encode -/

/-- A byte that is no command decodes to CMD_ILLEGAL (R75). -/
theorem decodeCommand_illegal (c : Byte) (h : isCommandByte c = false) : decodeCommand c = .cmdIllegal c := by
  simp only [isCommandByte, Bool.or_eq_false_iff, beq_eq_false_iff_ne] at h
  simp [decodeCommand, h]

/-- The pairs (ROUND, 2..9) dispatch to a full round (R77). -/
theorem decodeDispatch_fullround (r : BitVec 4) (h : (2#4 ≤ r && r ≤ 9#4) = true) :
    decodeDispatch .round r = .ctrlFullround r := if_pos (by simpa using h)

/-- Settles O1: each row's word or key decodes by its fields, and the operand bounds of `Instr.wf` are what sends the
fields of a row with bounds back to that row. -/
theorem decodeOfEncodeIsIdentity : Obligations.DecodeOfEncodeIsIdentity := by
  intro i hwf
  cases i with
  | cmdIllegal c =>
    have hc : decodeWrite 0x00#8 c = .cmdIllegal c := decodeCommand_illegal c (by simpa [Instr.wf] using hwf)
    rw [encode, decode_writeWord, hc]
  | cmdNop | cmdLoadKey | cmdEncrypt | cmdDecrypt | cmdSoftReset => exact decode_writeWord _ _
  | rdOut k d => rw [encode, decode_readWord, decodeRead_out]
  | rdRkwin k d => rw [encode, decode_readWord, decodeRead_rkwin]
  | rdReserved a d => rw [encode, decode_readWord, decodeRead_reserved a d hwf]
  | rdCmd | rdStatus | rdErrcode | rdDin | rdInCnt | rdFsm | rdRoundcnt | rdKsidx | rdRkidx | rdGfa | rdGfb | rdGfp
  | rdSbin | rdSbout => exact decode_readWord _ _
  | wrIgnored a d => rw [encode, decode_writeWord, decodeWrite_ignored a d hwf]
  | wrDin | wrRkidx | wrGfa | wrGfb | wrSbin => exact decode_writeWord _ _
  | ctrlFullround r => rw [encode, decode_keyWord, decodeDispatch_fullround r hwf]
  | ctrlUnreachable f r => rw [encode, decode_keyWord, (decodeDispatch_unreachable_iff f r).mpr hwf]
  | ctrlKeyexp | ctrlWhiten | ctrlFullroundFirst | ctrlFinalround | ctrlSerialize | ctrlNoneIdle | ctrlNoneError =>
    exact decode_keyWord _ _

/-! ### Encode after decode, form by form -/

/-- A decoded read encodes to its read word (R76). -/
theorem encode_decodeRead (a d : Byte) : encode (decodeRead a d) = readWord a d := by
  apply decodeRead_elim (P := fun i => encode i = readWord a d) a d <;> intros <;> simp only [encode, *]

/-- A decoded command encodes to the write of its byte to CMD (R74, R75). -/
theorem encode_decodeCommand (c : Byte) : encode (decodeCommand c) = writeWord 0x00#8 c := by
  unfold decodeCommand
  split_ifs <;> simp only [encode, *]

/-- A decoded write encodes to its write word (R76). -/
theorem encode_decodeWrite (a v : Byte) : encode (decodeWrite a v) = writeWord a v := by
  by_cases ha : a = 0x00#8
  · subst ha
    exact encode_decodeCommand v
  · simp only [decodeWrite, ha, ↓reduceIte]
    split_ifs <;> simp only [encode, *]

/-- A dispatched controller step encodes to its key (R77). -/
theorem encode_decodeDispatch (f : Fsm) (rc : BitVec 4) : encode (decodeDispatch f rc) = keyWord f rc := by
  cases f with
  | idle | keyexp | error => rfl
  | loaded | whitened | round | final =>
    simp only [decodeDispatch]
    split_ifs <;> simp only [encode, *]

/-- A dispatched controller step is well formed. -/
theorem decodeDispatch_wf (f : Fsm) (rc : BitVec 4) : (decodeDispatch f rc).wf = true := by
  cases f <;> (revert rc; decide)

/-! ### The accepted strings of bytes -/

/-- A read word in bytes: DATA, ADDR, and RW = 0 (R71, log 7). -/
theorem readWord_bytes (a d : Byte) : readWord a d = [d, a, 0x00#8] := by simp [readWord, transactionBytes]

/-- A write word in bytes: DATA, ADDR, and RW = 1 (R71, log 7). -/
theorem writeWord_bytes (a d : Byte) : writeWord a d = [d, a, 0x01#8] := by simp [writeWord, transactionBytes]

/-- A code is read as the controller state it is the code of (R78). -/
theorem code_of_fsmOfCode {c : Byte} {f : Fsm} (h : fsmOfCode c = some f) : f.code = c := by
  unfold fsmOfCode at h
  split_ifs at h <;> cases h <;> simp only [Fsm.code, *]

/-- The last eight bits of a key are the last digit of its code and RC (R77). -/
theorem dispatchKey_low (x y z : BitVec 4) : (dispatchKey (x ++ y) z).extractLsb' 0 8 = y ++ z := by
  apply BitVec.eq_of_getLsbD_eq
  intro i hi
  simp only [dispatchKey, BitVec.getLsbD_append, BitVec.getLsbD_extractLsb']
  simp [hi, show i - 4 < 4 by omega]

/-- The first four bits of a key are the first digit of its code (R77). -/
theorem dispatchKey_high (x y z : BitVec 4) : (dispatchKey (x ++ y) z).extractLsb' 8 4 = x := by
  apply BitVec.eq_of_getLsbD_eq
  intro i hi
  simp only [dispatchKey, BitVec.getLsbD_append, BitVec.getLsbD_extractLsb']
  simp [hi, show ¬ 8 + i < 4 by omega, show ¬ 8 + i - 4 < 4 by omega, show 8 + i - 4 - 4 = i by omega]

/-- A byte up to 0x0F is its last digit. -/
theorem zeroExtend_digit (b : Byte) (h : ¬ 0x0F#8 < b) : (b.extractLsb' 0 4).zeroExtend 8 = b := by
  revert b; decide

/-- Two bytes without a bit above bit 11 are the key of the digits they hold (R77, log 7). -/
theorem keyBytes_of_digits (b0 b1 : Byte) (h : ¬ 0x0F#8 < b1) :
    keyBytes (dispatchKey (b1.extractLsb' 0 4 ++ b0.extractLsb' 4 4) (b0.extractLsb' 0 4)) = [b0, b1] := by
  rw [keyBytes, dispatchKey_low, dispatchKey_high, zeroExtend_digit b1 h, ← addr_of_high b0 _ rfl]

/-- The decoder accepts read words, write words and dispatch keys, and nothing else (R71, R77, R80). -/
theorem accepted_cases {bs : List Byte} {i : Instr} (h : decode bs = .ok i) :
    (∃ a d, bs = readWord a d) ∨ (∃ a d, bs = writeWord a d) ∨ (∃ f rc, bs = keyWord f rc) := by
  match bs with
  | [d, a, b2] =>
    by_cases hb : 0x01#8 < b2
    · simp [decode, hb] at h
    · rcases (by bv_omega : b2 = 0x00#8 ∨ b2 = 0x01#8) with rfl | rfl
      · exact .inl ⟨a, d, (readWord_bytes a d).symm⟩
      · exact .inr (.inl ⟨a, d, (writeWord_bytes a d).symm⟩)
  | [b0, b1] =>
    by_cases hb : 0x0F#8 < b1
    · simp [decode, hb] at h
    · cases hf : fsmOfCode (b1.extractLsb' 0 4 ++ b0.extractLsb' 4 4) with
      | none => simp [decode, hb, hf] at h
      | some f =>
        refine .inr (.inr ⟨f, b0.extractLsb' 0 4, ?_⟩)
        rw [keyWord, code_of_fsmOfCode hf, keyBytes_of_digits b0 b1 hb]
  | [] | [_] | _ :: _ :: _ :: _ :: _ => cases h

/-- Settles O2: an accepted string is a word or a key, and what it decodes to is well formed and encodes back to it. -/
theorem encodeOfDecodeIsIdentity : Obligations.EncodeOfDecodeIsIdentity := by
  intro bs i h
  obtain ⟨a, d, rfl⟩ | ⟨a, d, rfl⟩ | ⟨f, rc, rfl⟩ := accepted_cases h
  · rw [decode_readWord] at h; cases h
    exact ⟨decodeRead_wf a d, encode_decodeRead a d⟩
  · rw [decode_writeWord] at h; cases h
    exact ⟨decodeWrite_wf a d, encode_decodeWrite a d⟩
  · rw [decode_keyWord] at h; cases h
    exact ⟨decodeDispatch_wf f rc, encode_decodeDispatch f rc⟩

/-! ### Words and keys -/

/-- Settles O3: the three forms decode by their fields, to a read, to a write and to a controller step. -/
theorem everyWordAndEveryDispatchPairDecodes : Obligations.EveryWordAndEveryDispatchPairDecodes :=
  ⟨fun a d => ⟨_, decode_readWord a d, decodeRead_readsFrom a d⟩,
    fun a v => ⟨_, decode_writeWord a v, decodeWrite_kind a v⟩,
    fun f rc => ⟨_, decode_keyWord f rc, decodeDispatch_controller f rc⟩⟩

/-- Settles O4: ten closed words, each decoded. -/
theorem writtenOutWordsDecode : Obligations.WrittenOutWordsDecode := by
  unfold Obligations.WrittenOutWordsDecode
  decide

end Sys2Proof
end

section
/-! The step that a dispatch key selects, and the answer of a read, as the statements put them (R57, R60, R76, R77). -/

namespace Sys2Proof.Machine

/-- Settles O8: a read answers the byte R76 gives, or else the one drawn. -/
theorem everyReadAnswersItsRegister : Obligations.EveryReadAnswersItsRegister := by
  intro i a s hwf ha
  refine ⟨fun v hv => exec_read_of_value s hwf ha hv, fun hnone => ⟨Config.freeByte s.draws, ?_⟩⟩
  rw [exec_read s hwf ha, hnone]; rfl

/-- Settles O6: the key decodes to `decodeDispatch`, which CTRL's turn runs on the turns that are left; with none listed
none is taken off. -/
theorem controllerTurnRunsTheDispatchedStep : Obligations.ControllerTurnRunsTheDispatchedStep := by
  intro s i hi
  rw [decode_keyWord] at hi
  cases hi
  refine ⟨fun ts ht => ?_, fun ht => ?_⟩
  · rw [step_ctrl (.inl ⟨ts, ht⟩), ht]; rfl
  · have htail : s.turns.tail = s.turns := by rw [ht]; rfl
    rw [step_ctrl (.inr ht), htail]

end Sys2Proof.Machine
end

section
/-! The multiplier is bilinear over XOR and the single bits span the bytes, so a law of the multiplier that XOR respects
need only be known of single bits (R90, R91); and the Rcon table doubles (R97). -/

namespace Sys2Proof.Machine

/-! ### Constants on the right -/

@[simp] theorem gfLoop_zero_right (n : Nat) (a acc : Byte) : gfLoop n a 0x00#8 acc = acc := by
  induction n generalizing a with
  | zero => rfl
  | succ n ih => simp [gfLoop, ih]

@[simp] theorem gfMul_zero_right (a : Byte) : gfMul a 0x00#8 = 0x00#8 := gfLoop_zero_right 8 a 0x00#8

@[simp] theorem gfMul_one_right (a : Byte) : gfMul a 0x01#8 = a := by simp [gfMul, gfLoop]

/-- With `b = 2` the loop adds nothing at its first iteration and the doubled `a` at its second (R92). -/
theorem gfMul_two_right (a : Byte) : gfMul a 0x02#8 = xtime a := by simp [gfMul, gfLoop]

/-! ### Bilinearity -/

/-- The loop is linear in its second operand and its accumulator together. -/
theorem gfLoop_xor_right (n : Nat) (a b b' acc acc' : Byte) :
    gfLoop n a (b ^^^ b') (acc ^^^ acc') = gfLoop n a b acc ^^^ gfLoop n a b' acc' := by
  induction n generalizing a b b' acc acc' with
  | zero => rfl
  | succ n ih =>
    simp only [gfLoop, BitVec.ushiftRight_xor_distrib, ← ih, BitVec.getLsbD_xor]
    congr 1
    cases b.getLsbD 0 <;> cases b'.getLsbD 0
    · rfl
    · exact BitVec.xor_assoc ..
    · simp only [Bool.xor_false, ↓reduceIte, Bool.false_eq_true]; ac_rfl
    · calc acc ^^^ acc' = acc ^^^ acc' ^^^ (a ^^^ a) := by simp
        _ = acc ^^^ a ^^^ (acc' ^^^ a) := by ac_rfl

/-- The multiplier distributes over XOR in its second operand (R91). -/
theorem gfMul_xor_right (a b b' : Byte) : gfMul a (b ^^^ b') = gfMul a b ^^^ gfMul a b' :=
  gfLoop_xor_right 8 a b b' 0x00#8 0x00#8

/-- R92: 3 is 2 XOR 1. -/
theorem gfMul_three_right (a : Byte) : gfMul a 0x03#8 = xtime a ^^^ a := by
  simpa [gfMul_two_right] using gfMul_xor_right a 0x02#8 0x01#8

/-! ### Commutativity -/

/-- The low `n + 1` bits, with bit `n` set, are the low `n` bits XOR that bit. -/
theorem setWidth_succ_eq_xor_twoPow {w n : Nat} {a : BitVec w} (hbit : a.getLsbD n = true) :
    (a.setWidth (n + 1)).setWidth w = (a.setWidth n).setWidth w ^^^ BitVec.twoPow w n := by
  ext i hi
  by_cases h : i = n
  · subst h; simp [hbit]
  · have hlt : i < n + 1 ↔ i < n := by omega
    simp [hlt, h, hi]

/-- What holds of zero and of every single bit, and is kept by XOR, holds of every word. -/
theorem xor_twoPow_induction {w : Nat} {P : BitVec w → Prop} (zero : P 0#w)
    (xor : ∀ a b, P a → P b → P (a ^^^ b)) (bit : ∀ i < w, P (BitVec.twoPow w i)) (a : BitVec w) : P a := by
  have low : ∀ n ≤ w, P ((a.setWidth n).setWidth w) := by
    intro n
    induction n with
    | zero =>
      intro _
      rw [BitVec.eq_nil (a.setWidth 0)]
      simpa using zero
    | succ n ih =>
      intro hn
      cases hbit : a.getLsbD n with
      | false =>
        rw [BitVec.setWidth_setWidth_succ_eq_setWidth_setWidth_of_getLsbD_false hbit]
        exact ih (by omega)
      | true =>
        rw [setWidth_succ_eq_xor_twoPow hbit]
        exact xor _ _ (ih (by omega)) (bit n hn)
  simpa using low w (Nat.le_refl w)

theorem gfMul_comm_twoPow :
    ∀ i < 8, ∀ j < 8, gfMul (.twoPow 8 i) (.twoPow 8 j) = gfMul (.twoPow 8 j) (.twoPow 8 i) := by decide

/-- Both products are linear in each operand, so they agree once they agree on single bits (R91). -/
theorem gfMul_comm (a b : Byte) : gfMul a b = gfMul b a := by
  induction a using xor_twoPow_induction with
  | zero => rw [gfMul_zero_left, gfMul_zero_right]
  | xor a a' ha ha' => rw [gfMul_xor_left, gfMul_xor_right, ha, ha']
  | bit i hi =>
    induction b using xor_twoPow_induction with
    | zero => rw [gfMul_zero_left, gfMul_zero_right]
    | xor b b' hb hb' => rw [gfMul_xor_left, gfMul_xor_right, hb, hb']
    | bit j hj => exact gfMul_comm_twoPow i hi j hj

/-! ### The obligations -/

/-- Settles O39: the multiplier is bilinear, and commutes on single bits; at 0 and 1 its loop is followed to its end. -/
theorem multiplierLaws : Obligations.MultiplierLaws :=
  ⟨fun a => ⟨gfMul_zero_right a, gfMul_one_right a⟩, gfMul_comm, gfMul_xor_right, by decide⟩

/-- Settles O40: the forms are read off the loop with the constant on the right, and commutativity moves it. -/
theorem multiplyByTwoAndThreeClosedForms : Obligations.MultiplyByTwoAndThreeClosedForms := by
  intro a
  rw [gfMul_comm 0x02#8 a, gfMul_comm 0x03#8 a, gfMul_two_right, gfMul_three_right]
  exact ⟨rfl, rfl, rfl, rfl⟩

/-- The recurrence of R97, over the nine indices it speaks of. -/
theorem rcon_succ : ∀ j : Fin 9, rcon j.succ = gfMul 0x02#8 (rcon j.castSucc) := by decide

/-- Settles O41: the entries are the table's, and the recurrence holds at each of its nine indices. -/
theorem rconDoubles : Obligations.RconDoubles :=
  ⟨rfl, rfl, fun j hj => rcon_succ ⟨j, by omega⟩⟩

end Sys2Proof.Machine
end

section
/-! The key schedule as a function (R110): its words byte by byte, and that the loop's result depends on the key
alone. -/

namespace Sys2Proof.Machine

section Words

variable {table : SboxTable}

/-- A schedule word byte by byte (R110, R112). -/
theorem scheduleWord_getElem (rk : Schedule) (i j : Nat) (hi : 4 ≤ i ∧ i < 44) (hj : j < 4) :
    (scheduleWord table rk i hi)[j] = rk[i - 4][j] ^^^
      (if i % 4 = 0 then
        sbox table rk[i - 1][(j + 1) % 4] ^^^ (if j = 0 then rcon ⟨i / 4 - 1, by omega⟩ else 0x00#8)
      else rk[i - 1][j]) := by
  rw [scheduleWord, wordXor_getElem]
  split
  · next h4 => rw [scheduleTemp_rotated i hi h4 _ j hj]
  · next h4 => rw [scheduleTemp_plain i hi h4]

/-- One iteration of R110's loop while there is a word left. -/
theorem expandWords_succ (rk : Schedule) (n : Nat) (hn : n < 40) :
    expandWords table rk (n + 1) = (expandWords table rk n).set (n + 4)
      (scheduleWord table (expandWords table rk n) (n + 4) ⟨by omega, by omega⟩) := by
  simp [expandWords, show n + 4 < 44 by omega]

/-- R110's loop ends after 40 iterations: further ones change nothing. -/
theorem expandWords_of_ge (rk : Schedule) (n : Nat) (hn : 40 ≤ n) :
    expandWords table rk n = expandWords table rk 40 := by
  induction n, hn using Nat.le_induction with
  | base => rfl
  | succ n hn ih => rw [expandWords, dif_neg (by omega), ih]

/-- The first four words of KeyExpand are the key's rows (R110). -/
theorem keyExpand_low (key : Block) (i j : Nat) (hi : i < 4) (hj : j < 4) :
    (keyExpand table key)[i][j] = key[4 * i + j] := by
  rw [keyExpand, expandWords_low _ _ i hi, loadKeyWords_low _ _ i j hi hj]

/-- The other words of KeyExpand follow the schedule (R110). -/
theorem keyExpand_follows (key : Block) : FollowsSchedule table (keyExpand table key) 44 :=
  expandWords_follows _ 40 (by omega)

/-- The loop gives KeyExpand from any table that holds the key: every later word is written (R110, R114). -/
theorem expandWords_loadKeyWords (rk : Schedule) (key : Block) :
    expandWords table (loadKeyWords rk key) 40 = keyExpand table key := by
  refine Vector.ext fun i hi => followsSchedule_unique _ _ 44 (expandWords_follows _ 40 (by omega))
    (keyExpand_follows key) (fun m hm => Vector.ext fun j hj => ?_) i hi hi
  rw [expandWords_low _ _ m hm, loadKeyWords_low _ _ m j hm hj, keyExpand_low key m j hm hj]

end Words

/-- Settles O47: the key's words stay through the loop, and each later word is its schedule word. -/
theorem keyExpandMeetsItsRecurrence : Obligations.KeyExpandMeetsItsRecurrence := by
  refine fun table key => ⟨keyExpand_low key, fun i j hi hj => ?_⟩
  rw [keyExpand_follows key i hi hi.2, scheduleWord_getElem _ i j hi hj]

end Sys2Proof.Machine
end

section
/-! LOAD_KEY's acceptance (R111) and the controller's key-expansion step (R113), field by field. -/

namespace Sys2Proof.Machine

/-- LOAD_KEY accepted: the key goes into words 0..3 and the expansion starts (R111). -/
theorem exec_cmdLoadKey_of_accepted {s : State} (hf : s.fsm = .idle) (hn : s.inCnt = 16#8) :
    exec .cmdLoadKey s = .next { s with
      rk := loadKeyWords s.rk s.ibuf, keyValid := false, ksidx := 4#6, inCnt := 0x00#8, fsm := .keyexp } := by
  rw [exec, execCmdLoadKey, whenIdle_of_idle _ _ hf, acceptLoadKey, if_pos hn]

/-- A CTRL that is not stuck makes one iteration of the expansion in KEYEXP (R113). -/
theorem exec_ctrlKeyexp_of_keyexp (rc : BitVec 4) {s : State} (hn : s.ctrlFault = none) (hf : s.fsm = .keyexp)
    (h : 4 ≤ s.ksidx.toNat ∧ s.ksidx.toNat < 44) : exec (.ctrlKeyexp rc) s = .next (expandStep s h) := by
  rw [exec, execCtrlKeyexp, unlessStuck_of_none _ _ hn, expandOrRecord, dif_pos ⟨hf, h⟩]

/-- The expansion step for word `i`, with everything that depends on KSIDX written with `i` (R113). -/
theorem expandStep_eq {s : State} {i : Nat} (h : 4 ≤ s.ksidx.toNat ∧ s.ksidx.toNat < 44) (hf : s.fsm = .keyexp)
    (hi : s.ksidx.toNat = i) :
    expandStep s h = { s with
      rk := s.rk.set i (scheduleWord s.sboxRom s.rk i (hi ▸ h)) (by omega)
      ksidx := s.ksidx + 1#6
      keyValid := if i = 43 then true else s.keyValid
      fsm := if i = 43 then .idle else .keyexp } := by
  have h43 : s.ksidx = 43#6 ↔ i = 43 := by rw [← hi]; exact BitVec.toNat_inj.symm
  subst hi
  simp only [expandStep, h43, hf]

/-- Settles O18: the accepted LOAD_KEY is known field by field, and its table word by word. -/
theorem loadKeyAcceptedStartsTheExpansion : Obligations.LoadKeyAcceptedStartsTheExpansion := fun s hf hn =>
  ⟨_, exec_cmdLoadKey_of_accepted hf hn, rfl, loadKeyWords_low s.rk s.ibuf, loadKeyWords_high s.rk s.ibuf⟩

/-- Settles O29: the step sets word `i` to its schedule word, which is known byte by byte. -/
theorem keyExpansionStepComputesOneWord : Obligations.KeyExpansionStepComputesOneWord := by
  intro rc s i hi hnone hf hidx
  have hstep := exec_ctrlKeyexp_of_keyexp rc hnone hf (hidx ▸ hi)
  rw [expandStep_eq (hidx ▸ hi) hf hidx] at hstep
  have hnew (j : Nat) (hj : j < 4) := scheduleWord_getElem (table := s.sboxRom) s.rk i j hi hj
  refine ⟨by rw [hf]; exact decode_keyWord .keyexp rc, _, hstep, rfl, ?_, ?_, ?_⟩
  · exact fun n hn hne => Vector.getElem_set_ne hi.2 hn hne.symm
  · intro h4 j hj
    simp [hnew j hj, h4]
  · intro h4 j hj
    simp [hnew j hj, h4, BitVec.xor_assoc]

end Sys2Proof.Machine
end

section
/-! SUPPORT. Runs in which HOST spares the running operation: what one such turn leaves alone, and the induction over
the turns that counts CTRL's (R60, R162, R249). -/

namespace Sys2Proof.Machine

/-- Every step answers a next state. -/
theorem step_next (s : State) : ∃ t, step s = .next t := by
  obtain ⟨i, -, e⟩ := step_makes s
  rw [e]; exact exec_next i _

/-- A turn that spares the operation changes nothing but the input buffer, the test ports and what HOST has read. -/
theorem step_of_spares {s t : State} {x : Turn} {ts : List Turn} (hts : s.turns = x :: ts)
    (hx : x.sparesOperation = true) (h : step s = .next t) : t = { s with
      ibuf := t.ibuf, inCnt := t.inCnt, rkidx := t.rkidx, gfa := t.gfa, gfb := t.gfb, sbin := t.sbin
      turns := ts, reads := t.reads, draws := t.draws } := by
  cases x with
  | reset | ctrl => cases hx
  | bus w =>
    have hw : (decodeTransaction w).isGatedCommand = false ∧ decodeTransaction w ≠ .cmdSoftReset := by
      simpa [Turn.sparesOperation] using hx
    have hc := decodeTransaction_not_controller w
    rw [step_bus hts] at h
    generalize decodeTransaction w = i at h hw hc
    cases exec_effect h with
    | still => rfl
    | port _ _ _ _ _ _ ht => rw [ht]
    | raised _ _ _ hg => simp [hg] at hw
    | reset => exact absurd rfl hw.2
    | loadKey | encrypt => cases hw.1
    | faulted _ _ hctrl | fullRound _ _ _ hctrl => simp [hctrl] at hc
    | expand | whiten | finalRound | serialize => cases hc

/-- A run through turns of CTRL and turns that spare the operation: what CTRL's turns count up and the others keep
holds at its end for the number of CTRL's turns. -/
theorem run_counts_ctrl {P : Nat → State → Prop}
    (hctrl : ∀ n s t, s.ctrlNext → step s = .next t → P n s → P (n + 1) t)
    (hspares : ∀ n s t x ts, s.turns = x :: ts → x.sparesOperation = true → step s = .next t → P n s → P n t)
    {turns : List Turn} (hturns : ∀ x ∈ turns, x = .ctrl ∨ x.sparesOperation = true) {n : Nat} {s : State}
    (hs : s.turns = turns) (hP : P n s) :
    ∃ u, Host.Core.run Sys2Proof.core turns.length s = .next u ∧ u.turns = [] ∧ P (n + turns.count .ctrl) u := by
  induction turns generalizing n s with
  | nil => exact ⟨s, rfl, hs, hP⟩
  | cons x ts ih =>
    obtain ⟨t, ht⟩ := step_next s
    have htail : t.turns = ts := by rw [step_turns ht, hs]; rfl
    obtain ⟨hx, hrest⟩ := List.forall_mem_cons.mp hturns
    have hnext : P (n + [x].count .ctrl) t := by
      rcases hx with rfl | hx
      · exact hctrl n s t (.inl ⟨ts, hs⟩) ht hP
      · have hne : x ≠ .ctrl := by rintro rfl; cases hx
        simpa [hne] using hspares n s t x ts hs hx ht hP
    obtain ⟨u, hrun, hend, hu⟩ := ih hrest htail hnext
    refine ⟨u, run_succ_eq_next.mpr ⟨t, ht, hrun⟩, hend, ?_⟩
    rwa [Nat.add_assoc, ← List.count_append] at hu

end Sys2Proof.Machine
end

section
/-! A whole LOAD_KEY (R114): after `n` turns of CTRL the table has gone through `n` iterations of R110's loop. -/

namespace Sys2Proof.Machine

/-- How far the expansion is, in `u`, after CTRL has had `n` turns since `s` accepted LOAD_KEY. -/
structure State.Expanded (s : State) (n : Nat) (u : State) : Prop where
  fsm : u.fsm = if n < 40 then .keyexp else .idle
  keyValid : u.keyValid = if n < 40 then false else true
  ksidx : u.ksidx.toNat = min (n + 4) 44
  rk : u.rk = expandWords s.sboxRom (loadKeyWords s.rk s.ibuf) n
  rom : u.sboxRom = s.sboxRom
  noFault : u.ctrlFault = none
  done : u.done = s.done
  out : u.out = s.out

/-- The expansion does not depend on the input buffer, the test ports, the turns to come or what HOST has read. -/
theorem State.Expanded.congr {s u v : State} {n : Nat} (h : s.Expanded n u) (hv : v = { u with
    ibuf := v.ibuf, inCnt := v.inCnt, rkidx := v.rkidx, gfa := v.gfa, gfb := v.gfb, sbin := v.sbin
    turns := v.turns, reads := v.reads, draws := v.draws }) : s.Expanded n v := by
  rw [hv]; exact { h with }

/-- An expansion step is one iteration of the loop (R113). -/
theorem State.Expanded.after_expandStep {s u : State} {n : Nat} (h : s.Expanded n u) (hn : n < 40)
    (hr : 4 ≤ u.ksidx.toNat ∧ u.ksidx.toNat < 44) : s.Expanded (n + 1) (expandStep u hr) := by
  have hf : u.fsm = .keyexp := by simp [h.fsm, hn]
  have hk : u.ksidx.toNat = n + 4 := by rw [h.ksidx]; omega
  have hlast : n + 4 = 43 ↔ ¬ n + 1 < 40 := by omega
  rw [expandStep_eq hr hf hk]
  exact {
    fsm := by simp only [hlast, ite_not]
    keyValid := by simp only [hlast, ite_not, h.keyValid, hn, ↓reduceIte]
    ksidx := by bv_omega
    rk := by simp only [h.rk, h.rom]; exact (expandWords_succ _ n hn).symm
    rom := h.rom
    noFault := h.noFault
    done := h.done
    out := h.out }

/-- CTRL's turn is an iteration while a word is left, and nothing afterwards (R113, R159). -/
theorem State.Expanded.after_ctrlTurn {s u v : State} {n : Nat} (h : s.Expanded n u) (hc : u.ctrlNext)
    (hv : step u = .next v) : s.Expanded (n + 1) v := by
  have htail : s.Expanded n { u with turns := u.turns.tail } := h.congr rfl
  rw [step_ctrl hc] at hv
  by_cases hn : n < 40
  · have hf : u.fsm = .keyexp := by simp [h.fsm, hn]
    have hr : 4 ≤ u.ksidx.toNat ∧ u.ksidx.toNat < 44 := by rw [h.ksidx]; omega
    have hd : decodeDispatch u.fsm u.rc = .ctrlKeyexp u.rc := by rw [hf]; rfl
    rw [hd, exec_ctrlKeyexp_of_keyexp u.rc htail.noFault hf hr] at hv
    cases hv
    exact htail.after_expandStep hn hr
  · have hsucc : ¬ n + 1 < 40 := by omega
    have hd : decodeDispatch u.fsm u.rc = .ctrlNoneIdle u.rc := by simp [h.fsm, hn, decodeDispatch]
    rw [hd] at hv
    cases hv
    exact { htail with
      fsm := by simp only [h.fsm, hn, hsucc]
      keyValid := by simp only [h.keyValid, hn, hsucc]
      ksidx := by simp only [h.ksidx]; omega
      rk := by simp only [h.rk, expandWords_of_ge _ n (by omega), expandWords_of_ge _ (n + 1) (by omega)] }

/-- Settles O57: the acceptance starts the expansion, each of CTRL's turns takes it on by one, and 40 iterations give
KeyExpand. -/
theorem loadKeyComputesTheKeyExpansion : Obligations.LoadKeyComputesTheKeyExpansion := by
  intro s hnone hf hcnt hturns h40
  have haccept := exec_cmdLoadKey_of_accepted hf hcnt
  have hstart : s.Expanded 0 { s with
      rk := loadKeyWords s.rk s.ibuf, keyValid := false, ksidx := 4#6, inCnt := 0x00#8, fsm := .keyexp } :=
    { fsm := rfl, keyValid := rfl, ksidx := rfl, rk := rfl, rom := rfl, noFault := hnone, done := rfl, out := rfl }
  obtain ⟨u, hrun, hend, hu⟩ := run_counts_ctrl (P := s.Expanded)
    (fun _ _ _ hc hstep h => h.after_ctrlTurn hc hstep)
    (fun _ _ _ _ _ hts hx hstep h => h.congr (by rw [step_of_spares hts hx hstep])) hturns
    (exec_turns haccept) hstart
  rw [Nat.zero_add] at hu
  have hidle : u.fsm = .idle := by rw [hu.fsm, if_neg (by omega)]
  refine ⟨_, u, haccept, hrun, ⟨⟨hend, by rw [hidle]; rfl⟩, by rw [hidle]; rfl⟩, ?_, ?_, ?_, hu.done, hu.out⟩
  · rw [hu.keyValid, if_neg (by omega)]
  · apply BitVec.eq_of_toNat_eq
    rw [hu.ksidx]
    exact Nat.min_eq_right (by omega)
  · rw [hu.rk, expandWords_of_ge _ _ h40, expandWords_loadKeyWords]

end Sys2Proof.Machine
end

section
/-! GF(2^8) as the model's multiplier gives it: a product of three bytes is the same in whatever order, so a byte is the
inverse of one byte only; hence the default SBox table, an inverse under an affine map, is a permutation (R91, R95,
R138). -/

namespace Sys2Proof.Machine

/-! ### Inverses -/

/-- The loop commutes with doubling its first operand and its accumulator together. -/
theorem gfLoop_xtime (n : Nat) (a b acc : Byte) : gfLoop n (xtime a) b (xtime acc) = xtime (gfLoop n a b acc) := by
  induction n generalizing a b acc with
  | zero => rfl
  | succ n ih => simp only [gfLoop, ← xtime_xor, ← apply_ite xtime, ih]

theorem gfMul_xtime_left (a b : Byte) : gfMul (xtime a) b = xtime (gfMul a b) := gfLoop_xtime 8 a b 0x00#8

/-- A product by `c` distributes over the loop's sum and passes its doublings. -/
theorem gfMul_gfLoop (n : Nat) (a b c acc : Byte) :
    gfMul (gfLoop n a b acc) c = gfLoop n (gfMul a c) b (gfMul acc c) := by
  induction n generalizing a b acc with
  | zero => rfl
  | succ n ih => simp only [gfLoop, ih, gfMul_xtime_left, ← gfMul_xor_left, apply_ite (gfMul · c)]

theorem gfMul_right_comm (a b c : Byte) : gfMul (gfMul a b) c = gfMul (gfMul a c) b :=
  (gfMul_gfLoop 8 a b c 0x00#8).trans (by rw [gfMul_zero_left]; rfl)

theorem gfMul_one_left (a : Byte) : gfMul 0x01#8 a = a := by rw [gfMul_comm, gfMul_one_right]

/-- A byte is the inverse of one byte only (R91). -/
theorem eq_of_gfMul_eq_one {a b i : Byte} (ha : gfMul a i = 0x01#8) (hb : gfMul b i = 0x01#8) : a = b :=
  calc a = gfMul (gfMul b i) a := by rw [hb, gfMul_one_left]
    _ = gfMul (gfMul a i) b := by rw [gfMul_right_comm, gfMul_comm b a, gfMul_right_comm]
    _ = b := by rw [ha, gfMul_one_left]

/-! ### The default table -/

/-- The affine map of the SBox's construction undone (91_not_in_source.md G2). -/
def undoAffine (b : Byte) : Byte := b.rotateLeft 1 ^^^ b.rotateLeft 3 ^^^ b.rotateLeft 6 ^^^ 0x05#8

/-- With the affine map undone, a nonzero byte's entry is its inverse. -/
theorem gfMul_undoAffine_sbox :
    ∀ b : Byte, b ≠ 0x00#8 → gfMul b (undoAffine (sbox defaultSboxTable b)) = 0x01#8 := by decide +kernel

/-- With the affine map undone, the entry of zero is zero. -/
theorem undoAffine_sbox_zero : undoAffine (sbox defaultSboxTable 0x00#8) = 0x00#8 := by decide

/-- Zero's entry is no other byte's: no byte has inverse zero. -/
theorem eq_zero_of_sbox_eq {b : Byte} (h : sbox defaultSboxTable b = sbox defaultSboxTable 0x00#8) : b = 0x00#8 := by
  by_contra hb
  have hinv := gfMul_undoAffine_sbox b hb
  rw [h, undoAffine_sbox_zero, gfMul_zero_right] at hinv
  exact absurd hinv (by decide)

theorem sbox_defaultSboxTable_injective : Function.Injective (sbox defaultSboxTable) := by
  intro a b h
  obtain rfl | ha := eq_or_ne a 0x00#8
  · exact (eq_zero_of_sbox_eq h.symm).symm
  obtain rfl | hb := eq_or_ne b 0x00#8
  · exact eq_zero_of_sbox_eq h
  · exact eq_of_gfMul_eq_one (gfMul_undoAffine_sbox a ha) (h ▸ gfMul_undoAffine_sbox b hb)

/-- The default table has no fixed point (91_not_in_source.md G5). -/
theorem sbox_defaultSboxTable_ne : ∀ b : Byte, sbox defaultSboxTable b ≠ b := by decide +kernel

end Sys2Proof.Machine
end

section
/-! The round transforms as functions of a whole matrix (43_round_transform.md): SubBytes, ShiftRows and AddRoundKey are
undone byte by byte (R138), ShiftRows permutes the block's offsets (R132), MixColumns is linear (R134). -/

namespace Sys2Proof.Machine

/-! ### SubBytes -/

theorem subBytes_injective {table : SboxTable} (h : Function.Injective (sbox table)) :
    Function.Injective (subBytes table) := by
  intro m n heq
  refine Matrix.ext_bytes fun r c hr hc => h ?_
  rw [← subBytes_getElem table m r c hr hc, heq, subBytes_getElem]

/-- Bytes that the table sends to `m`'s make a matrix that SubBytes sends to `m`. -/
theorem subBytes_surjective {table : SboxTable} (h : Function.Surjective (sbox table)) :
    Function.Surjective (subBytes table) := by
  intro m
  obtain ⟨undo, hundo⟩ := h.hasRightInverse
  exact ⟨m.map (·.map undo), Matrix.ext_bytes fun r c hr hc => by simp [hundo _]⟩

theorem finite_byte : Finite Byte := Finite.of_injective BitVec.toFin fun _ _ => BitVec.eq_of_toFin_eq

/-! ### ShiftRows -/

/-- After `n` times column `c` is rotated by `n * c` rows (R131). -/
theorem shiftRows_iterate_getElem (n : Nat) (m : Matrix) (r c : Nat) (hr : r < 4) (hc : c < 4) :
    (shiftRows^[n] m)[r][c] = m[(r + n * c) % 4][c] := by
  induction n generalizing m with
  | zero => simp [Nat.mod_eq_of_lt hr]
  | succ n ih =>
    have hrow : ((r + n * c) % 4 + c) % 4 = (r + (n + 1) * c) % 4 := by
      rw [Nat.mod_add_mod, Nat.succ_mul, Nat.add_assoc]
    simp only [Function.iterate_succ_apply, ih, shiftRows_getElem _ _ _ (Nat.mod_lt _ (by omega)) hc, hrow]

theorem shiftRows_four (m : Matrix) : shiftRows (shiftRows (shiftRows (shiftRows m))) = m :=
  Matrix.ext_bytes fun r c hr hc => by
    simpa [Nat.mod_eq_of_lt hr] using shiftRows_iterate_getElem 4 m r c hr hc

/-- ShiftRows on a block (R131). -/
theorem toBlock_shiftRows_getElem (b : Block) (k : Nat) (hk : k < 16) :
    (toBlock (shiftRows (toMatrix b)))[k] = b[4 * ((k / 4 + k % 4) % 4) + k % 4] := by
  rw [toBlock_getElem _ _ hk, shiftRows_getElem _ _ _ (by omega) (by omega),
    toMatrix_getElem _ _ _ (by omega) (by omega)]

/-- The permutation P of block offsets (R132). -/
def shiftRowsOffsets : Vector (Fin 16) 16 := #v[0, 5, 10, 15, 4, 9, 14, 3, 8, 13, 2, 7, 12, 1, 6, 11]

theorem shiftRowsOffsets_getElem :
    ∀ k : Fin 16, 4 * ((k.val / 4 + k.val % 4) % 4) + k.val % 4 = shiftRowsOffsets[k].val := by decide

theorem shiftRowsOffsets_injective : ∀ j k : Fin 16, shiftRowsOffsets[j] = shiftRowsOffsets[k] → j = k := by decide

/-! ### AddRoundKey -/

theorem addRoundKey_addRoundKey (m : Matrix) (rk : Schedule) (k : Fin 11) :
    addRoundKey (addRoundKey m rk k) rk k = m :=
  Matrix.ext_bytes fun r c hr hc => by simp

/-! ### MixColumns -/

/-- Each of the four sums of R134 is linear, as its products are (R91). -/
theorem mixGroup_wordXor (s t : Word) : mixGroup (wordXor s t) = wordXor (mixGroup s) (mixGroup t) := by
  refine Vector.ext fun j hj => ?_
  match j with
  | 0 | 1 | 2 | 3 =>
    simp only [mixGroup_zero, mixGroup_one, mixGroup_two, mixGroup_three, wordXor_getElem, gfMul_xor_right]
    ac_rfl

/-- 2 and 3 add up to 1; the other two coefficients of R134 are 1 and cancel in a constant group. -/
theorem gfMul_two_xor_three (x : Byte) : gfMul 0x02#8 x ^^^ gfMul 0x03#8 x = x := by
  rw [← gfMul_xor_left]; exact gfMul_one_left x

theorem mixGroup_const (x : Byte) : mixGroup #v[x, x, x, x] = #v[x, x, x, x] := by
  refine Vector.ext fun j hj => ?_
  match j with
  | 0 => simp [mixGroup_zero, gfMul_two_xor_three]
  | 1 => simp [mixGroup_one, BitVec.xor_assoc x, gfMul_two_xor_three]
  | 2 => simp [mixGroup_two, gfMul_two_xor_three]
  | 3 => simp [mixGroup_three, BitVec.xor_comm _ (gfMul 0x02#8 x), gfMul_two_xor_three]

/-! ### The obligations -/

/-- Settles O44: a permutation of the bytes acts byte by byte, the default table is one by its construction, column `c`
is rotated by `4 * c` rows, and a key byte cancels itself. -/
theorem laneTransformsAreBijective : Obligations.LaneTransformsAreBijective := by
  refine ⟨fun table htable => ?_, sbox_defaultSboxTable_injective, sbox_defaultSboxTable_ne, shiftRows_four,
    addRoundKey_addRoundKey⟩
  have hinj : Function.Injective (sbox table) := htable
  have := finite_byte
  exact ⟨subBytes_injective hinj, subBytes_surjective (Finite.surjective_of_injective hinj)⟩

/-- Settles O45: P lists the offsets that `new[r][c] = old[(r + c) % 4][c]` reads. -/
theorem shiftRowsPermutesOffsets : Obligations.ShiftRowsPermutesOffsets := by
  refine ⟨fun b k hk => ?_, fun j k hj hk h => ?_⟩
  · rw [toBlock_shiftRows_getElem b k hk]
    exact getElem_congr_idx (shiftRowsOffsets_getElem ⟨k, hk⟩)
  · exact congrArg Fin.val (shiftRowsOffsets_injective ⟨j, hj⟩ ⟨k, hk⟩ h)

/-- Settles O46: a row of MixColumns is its group, which is linear and fixes constants. -/
theorem mixColumnsIsLinearAndFixesConstants : Obligations.MixColumnsIsLinearAndFixesConstants := by
  refine ⟨fun m n x hx r c hr hc => ?_, fun m g hg x h => by rw [mixColumns_getElem, h, mixGroup_const]⟩
  have hrow : x[r] = wordXor m[r] n[r] := Vector.ext fun j hj => by rw [hx r j hr hj, wordXor_getElem]
  simp only [mixColumns_getElem, hrow, mixGroup_wordXor, wordXor_getElem]

end Sys2Proof.Machine
end

section
/-! Runs from reset (R9, R43, R60): every run answers a next state, and what reset meets and every step keeps holds
there. -/

namespace Sys2Proof.Machine

/-- A run of any length answers a next state. -/
theorem run_next (n : Nat) (s : State) : ∃ t, Host.Core.run Sys2Proof.core n s = .next t := by
  induction n generalizing s with
  | zero => exact ⟨s, rfl⟩
  | succ n ih =>
    obtain ⟨u, hu⟩ := step_next s
    obtain ⟨t, ht⟩ := ih u
    exact ⟨t, run_succ_eq_next.mpr ⟨u, hu, ht⟩⟩

/-- Settles O51: the run answers a next state, and the invariant, which includes that CTRL has recorded no fault, holds
at reset whatever turns are listed and is kept by every step. -/
theorem noRunFromResetStops : Obligations.NoRunFromResetStops := by
  intro table turns n htable
  have hreset : State.Inv { State.reset with sboxRom := table, turns := turns } :=
    (resetMeetsTheInvariant.2 table htable).congr rfl
  obtain ⟨t, hrun⟩ := run_next n { State.reset with sboxRom := table, turns := turns }
  have hinv : t.Inv := run_keeps (P := State.Inv) (fun s u h hs => everyStepKeepsTheInvariant s u hs h) n hrun hreset
  exact ⟨t, hrun, hinv, hinv.noFault⟩

end Sys2Proof.Machine
end

section
/-! ENCRYPT's acceptance (R150) and the controller's steps of an encryption where R77 dispatches them (R152, R153, R155,
R157, R159), each with the row it is dispatched by. -/

namespace Sys2Proof.Machine

/-! ### The meanings where they are dispatched -/

/-- ENCRYPT accepted: the block goes into ST and the pipeline starts (R150). -/
theorem exec_cmdEncrypt_of_accepted {s : State} (hf : s.fsm = .idle) (hn : s.inCnt = 16#8) (hk : s.keyValid = true) :
    exec .cmdEncrypt s = .next { s with
      st := toMatrix s.ibuf, rc := 0#4, done := false, inCnt := 0x00#8, fsm := .loaded } := by
  rw [exec, execCmdEncrypt, whenIdle_of_idle _ _ hf, acceptEncrypt, if_pos hn, if_pos hk]

/-- The row of a CTRL with no enabled step changes nothing (R159). -/
theorem exec_dispatch_of_quiescent {f : Fsm} (hf : busy f = false) (rc : BitVec 4) (s : State) :
    exec (decodeDispatch f rc) s = .next s := by
  rcases (busy_eq_false_iff f).mp hf with rfl | rfl <;> rfl

section Dispatched

variable {s : State} (hnone : s.ctrlFault = none)
include hnone

theorem exec_ctrlWhiten_of_loaded (hf : s.fsm = .loaded) (hr : s.rc = 0#4) :
    exec .ctrlWhiten s = .next { s with st := addRoundKey s.st s.rk 0, rc := 1#4, fsm := .whitened } := by
  rw [exec, execCtrlWhiten, whenDispatched_of _ _ _ s hnone hf hr, hr]; rfl

theorem exec_ctrlFullroundFirst_of_whitened (hf : s.fsm = .whitened) (hr : s.rc = 1#4) :
    exec .ctrlFullroundFirst s =
      .next { s with st := fullRound s.sboxRom s.st s.rk 1, rc := s.rc + 1#4, fsm := .round } := by
  rw [exec, execCtrlFullroundFirst, whenDispatched_of _ _ _ s hnone hf hr]

theorem exec_ctrlFullround_of_round (hf : s.fsm = .round) (hr : 2 ≤ s.rc.toNat ∧ s.rc.toNat ≤ 9) :
    exec (.ctrlFullround s.rc) s = .next { s with
      st := fullRound s.sboxRom s.st s.rk ⟨s.rc.toNat, by omega⟩, rc := s.rc + 1#4, fsm := .round } := by
  rw [exec, execCtrlFullround, dif_pos hr, whenDispatched_of _ _ _ s hnone hf rfl]

theorem exec_ctrlFinalround_of_round (hf : s.fsm = .round) (hr : s.rc = 10#4) :
    exec .ctrlFinalround s =
      .next { s with st := finalRound s.sboxRom s.st s.rk, rc := 11#4, fsm := .final } := by
  rw [exec, execCtrlFinalround, whenDispatched_of _ _ _ s hnone hf hr, hr]; rfl

theorem exec_ctrlSerialize_of_final (hf : s.fsm = .final) (hr : s.rc = 11#4) :
    exec .ctrlSerialize s = .next { s with out := toBlock s.st, done := true, fsm := .idle } := by
  rw [exec, execCtrlSerialize, whenDispatched_of _ _ _ s hnone hf hr]

/-- Round 1 has a row of its own; with rounds 2..9 it is one step, which the round index RC selects (R153). -/
theorem dispatch_fullRound {i : Instr} {n : Nat} (hn : n ≤ 9)
    (h : (i = .ctrlFullroundFirst ∧ s.fsm = .whitened ∧ s.rc = 1#4 ∧ n = 1) ∨
      (i = .ctrlFullround s.rc ∧ s.fsm = .round ∧ 2 ≤ n ∧ n = s.rc.toNat)) :
    decodeDispatch s.fsm s.rc = i ∧ exec i s = .next { s with
      st := fullRound s.sboxRom s.st s.rk ⟨n, by omega⟩, rc := s.rc + 1#4, fsm := .round } := by
  obtain ⟨rfl, hf, hr, rfl⟩ | ⟨rfl, hf, h2, rfl⟩ := h
  · exact ⟨by rw [hf, hr]; rfl, exec_ctrlFullroundFirst_of_whitened hnone hf hr⟩
  · refine ⟨?_, exec_ctrlFullround_of_round hnone hf ⟨h2, hn⟩⟩
    rw [hf]
    exact decodeDispatch_fullround s.rc (by simp [BitVec.le_def, h2, hn])

end Dispatched

/-! ### The rounds byte by byte -/

/-- A full round's byte is the MixColumns sum of the row that ShiftRows and SubBytes leave, XORed with the key's byte
(R153). -/
theorem fullRound_getElem (table : SboxTable) (m : Matrix) (rk : Schedule) (n : Fin 11) (g c : Nat) (hg : g < 4)
    (hc : c < 4) : (fullRound table m rk n)[g][c] =
      (mixGroup (shiftRows (subBytes table m))[g])[c] ^^^ rk[4 * n.val + g][c] := by
  rw [fullRound, addRoundKey_getElem, mixColumns_getElem]

/-- What MixColumns reads: ShiftRows of SubBytes (R130, R131). -/
theorem shiftRows_subBytes_getElem (table : SboxTable) (m : Matrix) (r c : Nat) (hr : r < 4) (hc : c < 4) :
    (shiftRows (subBytes table m))[r][c] = sbox table m[(r + c) % 4][c] := by
  rw [shiftRows_getElem _ _ _ hr hc, subBytes_getElem]

theorem finalRound_getElem (table : SboxTable) (m : Matrix) (rk : Schedule) (r c : Nat) (hr : r < 4) (hc : c < 4) :
    (finalRound table m rk)[r][c] = sbox table m[(r + c) % 4][c] ^^^ rk[40 + r][c] := by
  rw [finalRound, addRoundKey_getElem, shiftRows_subBytes_getElem]; rfl

theorem toBlock_getElem_row (m : Matrix) (r c : Nat) (hr : r < 4) (hc : c < 4) : (toBlock m)[4 * r + c] = m[r][c] := by
  rw [← toMatrix_getElem _ r c hr hc, toMatrix_toBlock]

/-! ### The obligations -/

/-- Settles O20: the accepted ENCRYPT is known field by field, and its ST byte by byte. -/
theorem encryptAcceptedLoadsTheBlock : Obligations.EncryptAcceptedLoadsTheBlock := fun s hf hn hk =>
  ⟨_, exec_cmdEncrypt_of_accepted hf hn hk, rfl, toMatrix_getElem s.ibuf⟩

/-- Settles O30: at (LOADED, 0) the whitening step is dispatched, and it adds round key 0. -/
theorem whiteningStepMixesRoundKeyZero : Obligations.WhiteningStepMixesRoundKeyZero := by
  intro s hnone hf hr
  refine ⟨by rw [decode_keyWord, hf, hr]; rfl, _, exec_ctrlWhiten_of_loaded hnone hf hr, rfl, fun r c hrow hcol => ?_⟩
  simp

/-- Settles O31: the round's step is the one dispatched, and each byte of its row is one sum of R134. -/
theorem fullRoundStepAppliesTheFourTransforms : Obligations.FullRoundStepAppliesTheFourTransforms := by
  intro i s n hn hnone h
  obtain ⟨hrow, hexec⟩ := dispatch_fullRound hnone hn h
  refine ⟨by rw [decode_keyWord, hrow], _, hexec, rfl, fun g hg => ?_⟩
  simp only [fullRound_getElem, mixGroup_zero, mixGroup_one, mixGroup_two, mixGroup_three, shiftRows_subBytes_getElem]
  exact ⟨rfl, rfl, rfl, rfl⟩

/-- Settles O32: at (ROUND, 10) the final round is dispatched, which mixes no columns. -/
theorem finalRoundStepOmitsMixColumns : Obligations.FinalRoundStepOmitsMixColumns := by
  intro s hnone hf hr
  exact ⟨by rw [decode_keyWord, hf, hr]; rfl, _, exec_ctrlFinalround_of_round hnone hf hr, rfl,
    finalRound_getElem s.sboxRom s.st s.rk⟩

/-- Settles O33: at (FINAL, 11) the serialize step is dispatched, which stores ST row by row. -/
theorem serializeStepWritesOut : Obligations.SerializeStepWritesOut := by
  intro s hnone hf hr
  exact ⟨by rw [decode_keyWord, hf, hr]; rfl, _, exec_ctrlSerialize_of_final hnone hf hr, rfl,
    toBlock_getElem_row s.st⟩

/-- Settles O34: the rows of IDLE and ERROR change nothing, and with no turn listed none is taken off. -/
theorem noControllerStepInIdleOrError : Obligations.NoControllerStepInIdleOrError := by
  refine fun rc s => ⟨rfl, rfl, fun hts hbusy => ?_⟩
  have htail : s.turns.tail = s.turns := by rw [hts]; rfl
  rw [step_ctrl (.inr hts), htail]
  exact exec_dispatch_of_quiescent hbusy s.rc s

end Sys2Proof.Machine
end

section
/-! A whole encryption (R158, R161): after `n` turns of CTRL since ENCRYPT was accepted, round keys 0 to `n - 1` are
mixed in, and the twelfth turn writes OUT. -/

namespace Sys2Proof.Machine

/-! ### The pipeline as a function of the number of steps -/

/-- The controller state after `n` steps from LOADED (R151). -/
def pipelineFsm (n : Nat) : Fsm :=
  if n = 0 then .loaded else if n = 1 then .whitened else if n ≤ 10 then .round else if n = 11 then .final else .idle

/-- ST after `n` steps from LOADED: the block, then R158's rounds; from the eleventh on the final round's result. -/
def pipelineSt (table : SboxTable) (rk : Schedule) (m : Matrix) : Nat → Matrix
  | 0 => m
  | n + 1 => if h : n ≤ 9 then afterRounds table m rk n h else finalRound table (afterRounds table m rk 9 (by omega)) rk

/-- An encryption is BUSY until its twelfth step (R161). -/
theorem busy_pipelineFsm {n : Nat} (hn : n < 12) : busy (pipelineFsm n) = true := by
  interval_cases n <;> rfl

theorem pipelineFsm_round {n : Nat} (h2 : 2 ≤ n) (h10 : n ≤ 10) : pipelineFsm n = .round := by
  simp [pipelineFsm, h10, show n ≠ 0 by omega, show n ≠ 1 by omega]

theorem pipelineFsm_idle {n : Nat} (hn : 12 ≤ n) : pipelineFsm n = .idle := by
  simp [pipelineFsm, show n ≠ 0 by omega, show n ≠ 1 by omega, show ¬ n ≤ 10 by omega, show n ≠ 11 by omega]

section Pipeline

variable (table : SboxTable) (rk : Schedule) (m : Matrix)

/-- Step `n + 1` is full round `n` (R153). -/
theorem pipelineSt_fullRound {n : Nat} (h1 : 1 ≤ n) (h9 : n ≤ 9) :
    pipelineSt table rk m (n + 1) = fullRound table (pipelineSt table rk m n) rk ⟨n, by omega⟩ := by
  obtain ⟨k, rfl⟩ := Nat.exists_eq_add_of_le' h1
  simp [pipelineSt, afterRounds, h9, show k ≤ 9 by omega]

/-- Steps after the eleventh leave ST (R157). -/
theorem pipelineSt_of_ge {n : Nat} (hn : 11 ≤ n) : pipelineSt table rk m n = pipelineSt table rk m 11 := by
  obtain ⟨k, rfl⟩ := Nat.exists_eq_add_of_le' hn
  simp [pipelineSt]

/-- Encrypt stores what eleven steps of the pipeline make of the block (R158). -/
theorem encryptBlock_eq_pipelineSt (p : Block) :
    encryptBlock table rk p = toBlock (pipelineSt table rk (toMatrix p) 11) := rfl

end Pipeline

/-- Settles O60: state `i` is what `i + 1` steps of the pipeline make of the block. -/
theorem encryptBlockIsTheRoundPipeline : Obligations.EncryptBlockIsTheRoundPipeline := by
  intro table w p
  refine ⟨fun i => pipelineSt table w (toMatrix p) (i + 1), rfl, fun i hi => ?_, rfl, ?_⟩
  · simp only [Nat.sub_add_cancel hi.1]
    exact pipelineSt_fullRound table w (toMatrix p) hi.1 hi.2
  · rw [encryptBlock_eq_pipelineSt]
    exact toBlock_getElem_row _

/-! ### The pipeline as the controller runs it -/

/-- How far the encryption is, in `u`, after CTRL has had `n` turns since `s` accepted ENCRYPT. -/
structure State.Encrypted (s : State) (n : Nat) (u : State) : Prop where
  fsm : u.fsm = pipelineFsm n
  rc : u.rc.toNat = min n 11
  st : u.st = pipelineSt s.sboxRom s.rk (toMatrix s.ibuf) n
  done : u.done = if n < 12 then false else true
  out : u.out = if n < 12 then s.out else encryptBlock s.sboxRom s.rk s.ibuf
  rk : u.rk = s.rk
  keyValid : u.keyValid = true
  rom : u.sboxRom = s.sboxRom
  noFault : u.ctrlFault = none

/-- The encryption does not depend on the input buffer, the test ports, the turns to come or what HOST has read. -/
theorem State.Encrypted.congr {s u v : State} {n : Nat} (h : s.Encrypted n u) (hv : v = { u with
    ibuf := v.ibuf, inCnt := v.inCnt, rkidx := v.rkidx, gfa := v.gfa, gfb := v.gfb, sbin := v.sbin
    turns := v.turns, reads := v.reads, draws := v.draws }) : s.Encrypted n v := by
  rw [hv]; exact { h with }

/-- RC counts the turns up to the eleventh (R39). -/
theorem State.Encrypted.rc_eq {s u : State} {n : Nat} (h : s.Encrypted n u) (hn : n ≤ 11) :
    u.rc = BitVec.ofNat 4 n := by
  apply BitVec.eq_of_toNat_eq
  rw [h.rc, BitVec.toNat_ofNat]
  omega

/-- After `n` turns, 1 to 9, full round `n` is dispatched (R153). -/
theorem State.Encrypted.dispatches_fullRound {s u : State} {n : Nat} (h : s.Encrypted n u) (h1 : 1 ≤ n) (h9 : n ≤ 9) :
    exec (decodeDispatch u.fsm u.rc) u = .next { u with
      st := fullRound u.sboxRom u.st u.rk ⟨n, by omega⟩, rc := u.rc + 1#4, fsm := .round } := by
  have hrc : u.rc.toNat = n := by rw [h.rc]; omega
  rcases h1.eq_or_lt with rfl | h2
  · obtain ⟨hd, hexec⟩ := dispatch_fullRound h.noFault h9 (.inl ⟨rfl, h.fsm, h.rc_eq (by omega), rfl⟩)
    rw [hd, hexec]
  · have hf : u.fsm = .round := h.fsm.trans (pipelineFsm_round h2 (by omega))
    obtain ⟨hd, hexec⟩ := dispatch_fullRound h.noFault h9 (.inr ⟨rfl, hf, h2, hrc.symm⟩)
    rw [hd, hexec]

/-- The row dispatched after `n` turns mixes in round key `n`, or serializes, or does nothing (R152, R153, R155, R157,
R159). -/
theorem State.Encrypted.after_dispatch {s u v : State} {n : Nat} (h : s.Encrypted n u)
    (hv : exec (decodeDispatch u.fsm u.rc) u = .next v) : s.Encrypted (n + 1) v := by
  rcases (by omega : n = 0 ∨ (1 ≤ n ∧ n ≤ 9) ∨ n = 10 ∨ n = 11 ∨ 12 ≤ n) with rfl | ⟨h1, h9⟩ | rfl | rfl | h12
  · have hf : u.fsm = .loaded := h.fsm
    have hr : u.rc = 0#4 := h.rc_eq (by omega)
    have hd : decodeDispatch u.fsm u.rc = .ctrlWhiten := by rw [hf, hr]; rfl
    rw [hd, exec_ctrlWhiten_of_loaded h.noFault hf hr] at hv
    cases hv
    exact { h with fsm := rfl, rc := rfl, st := by simp only [h.st, h.rk]; rfl }
  · rw [h.dispatches_fullRound h1 h9] at hv
    cases hv
    have hrc : u.rc.toNat = n := by rw [h.rc]; omega
    exact { h with
      fsm := (pipelineFsm_round (by omega) (by omega)).symm
      rc := by bv_omega
      st := by rw [pipelineSt_fullRound _ _ _ h1 h9, ← h.st, ← h.rk, ← h.rom]
      done := by rw [h.done, if_pos (by omega), if_pos (by omega)]
      out := by rw [h.out, if_pos (by omega), if_pos (by omega)] }
  · have hf : u.fsm = .round := h.fsm
    have hr : u.rc = 10#4 := h.rc_eq (by omega)
    have hd : decodeDispatch u.fsm u.rc = .ctrlFinalround := by rw [hf, hr]; rfl
    rw [hd, exec_ctrlFinalround_of_round h.noFault hf hr] at hv
    cases hv
    exact { h with fsm := rfl, rc := rfl, st := by simp only [h.st, h.rk, h.rom]; rfl }
  · have hf : u.fsm = .final := h.fsm
    have hr : u.rc = 11#4 := h.rc_eq (by omega)
    have hd : decodeDispatch u.fsm u.rc = .ctrlSerialize := by rw [hf, hr]; rfl
    rw [hd, exec_ctrlSerialize_of_final h.noFault hf hr] at hv
    cases hv
    exact { h with fsm := rfl, done := rfl, out := by simp only [h.st]; rfl }
  · have hf : u.fsm = .idle := h.fsm.trans (pipelineFsm_idle h12)
    rw [exec_dispatch_of_quiescent (by rw [hf]; rfl)] at hv
    cases hv
    exact { h with
      fsm := hf.trans (pipelineFsm_idle (by omega)).symm
      rc := by rw [h.rc]; omega
      st := by rw [h.st, pipelineSt_of_ge _ _ _ (by omega : 11 ≤ n), pipelineSt_of_ge _ _ _ (by omega : 11 ≤ n + 1)]
      done := by rw [h.done, if_neg (by omega), if_neg (by omega)]
      out := by rw [h.out, if_neg (by omega), if_neg (by omega)] }

/-- CTRL's turn takes the encryption on by one. -/
theorem State.Encrypted.after_ctrlTurn {s u v : State} {n : Nat} (h : s.Encrypted n u) (hc : u.ctrlNext)
    (hv : step u = .next v) : s.Encrypted (n + 1) v :=
  State.Encrypted.after_dispatch (u := { u with turns := u.turns.tail }) (h.congr rfl) ((step_ctrl hc).symm.trans hv)

/-- An accepted ENCRYPT and a run through turns that spare it: the encryption is as far as CTRL has had turns. -/
theorem encrypt_run {s : State} (hnone : s.ctrlFault = none) (hf : s.fsm = .idle) (hcnt : s.inCnt = 16#8)
    (hkey : s.keyValid = true) (hturns : ∀ x ∈ s.turns, x = .ctrl ∨ x.sparesOperation = true) :
    ∃ t u, exec .cmdEncrypt s = .next t ∧ Host.Core.run Sys2Proof.core s.turns.length t = .next u ∧
      u.turns = [] ∧ s.Encrypted (s.turns.count .ctrl) u := by
  have haccept := exec_cmdEncrypt_of_accepted hf hcnt hkey
  have hstart : s.Encrypted 0 { s with
      st := toMatrix s.ibuf, rc := 0#4, done := false, inCnt := 0x00#8, fsm := .loaded } :=
    { fsm := rfl, rc := rfl, st := rfl, done := rfl, out := rfl, rk := rfl, keyValid := hkey, rom := rfl
      noFault := hnone }
  obtain ⟨u, hrun, hend, hu⟩ := run_counts_ctrl (P := s.Encrypted)
    (fun _ _ _ hc hstep h => h.after_ctrlTurn hc hstep)
    (fun _ _ _ _ _ hts hx hstep h => h.congr (by rw [step_of_spares hts hx hstep])) hturns
    (exec_turns haccept) hstart
  exact ⟨_, u, haccept, hrun, hend, by rwa [Nat.zero_add] at hu⟩

/-- Settles O58: from the twelfth turn on the block is IDLE, and OUT has been written with the whole pipeline's
result. -/
theorem encryptComputesTheCiphertext : Obligations.EncryptComputesTheCiphertext := by
  intro s hnone hf hcnt hkey hturns h12
  obtain ⟨t, u, haccept, hrun, hend, hu⟩ := encrypt_run hnone hf hcnt hkey hturns
  have hlate : ¬ s.turns.count .ctrl < 12 := by omega
  have hidle : u.fsm = .idle := hu.fsm.trans (pipelineFsm_idle h12)
  refine ⟨t, u, haccept, hrun, ⟨⟨hend, by rw [hidle]; rfl⟩, by rw [hidle]; rfl⟩, ?_, ?_, ?_, hu.rk, hu.keyValid⟩
  · rw [hu.done, if_neg hlate]
  · exact BitVec.eq_of_toNat_eq (hu.rc.trans (Nat.min_eq_right (by omega)))
  · rw [hu.out, if_neg hlate]

/-- Settles O59: before the twelfth turn the controller is still in a state of the pipeline, and RC counts its turns. -/
theorem encryptNeedsTwelveControllerSteps : Obligations.EncryptNeedsTwelveControllerSteps := by
  intro s hnone hf hcnt hkey hturns h12
  obtain ⟨t, u, haccept, hrun, -, hu⟩ := encrypt_run hnone hf hcnt hkey hturns
  refine ⟨t, u, haccept, hrun, ?_, ?_, ?_, ?_⟩
  · rw [hu.fsm, busy_pipelineFsm h12]
  · rw [hu.done, if_pos h12]
  · rw [hu.out, if_pos h12]
  · rw [hu.rc, Nat.min_eq_left (by omega)]

end Sys2Proof.Machine
end

section
/-! What a controller step leaves alone (R164, R219), and when CTRL records a fault and stops (R160, U7). -/

namespace Sys2Proof.Machine

/-! ### The frame of a controller step -/

/-- A controller step is no command (R70). -/
theorem not_gated_of_controllerStep {i : Instr} (h : i.isControllerStep = true) : i.isGatedCommand = false := by
  cases i with
  | cmdLoadKey | cmdEncrypt | cmdDecrypt | cmdIllegal => cases h
  | _ => rfl

/-- Settles O37: a controller step's effect is to do nothing, to record a fault, an iteration of the expansion, or a
step of the pipeline, and none of these writes the named registers. -/
theorem controllerStepsLeaveHostRegisters : Obligations.ControllerStepsLeaveHostRegisters := by
  intro i s t hc h
  cases exec_effect h with
  | still | faulted | whiten | fullRound | finalRound | serialize => simp
  | expand _ _ _ hf => simp [hf, expandStep]
  | port _ _ _ _ _ hport => simp [hc] at hport
  | raised _ _ _ hg => simp [not_gated_of_controllerStep hc] at hg
  | reset | loadKey | encrypt => cases hc

/-! ### Recording a fault -/

/-- CTRL_UNREACHABLE leaves the fault recorded in every state: a stuck CTRL has recorded the only fault there is (R160,
U7). -/
theorem exec_ctrlUnreachable (f : Fsm) (rc : BitVec 4) (s : State) :
    exec (.ctrlUnreachable f rc) s = .next (recordFault .unreachableDispatch s) := by
  rw [exec, execCtrlUnreachable]
  by_cases hn : s.ctrlFault = none
  · rw [unlessStuck_of_none _ _ hn]
  · obtain ⟨⟨⟩, hsome⟩ := Option.ne_none_iff_exists'.mp hn
    rw [unlessStuck_of_fault _ _ hn, recordFault, ← hsome]

/-- No effect takes a recorded fault away, a reset's neither (U7, log 11). -/
theorem Effect.ctrlFault_of_stuck {i : Instr} {s t : State} (h : Effect i s t) (hs : s.ctrlFault ≠ none) :
    t.ctrlFault = s.ctrlFault := by
  cases h with
  | port _ _ _ _ _ _ ht => rw [ht]
  | faulted _ _ _ hn => exact absurd hn hs
  | _ => rfl

/-- R77 and R113 dispatch no step from `s`: its pair is one of R160's, or it is in KEYEXP with KSIDX outside 4..43
(log 6). -/
def State.undispatched (s : State) : Prop :=
  isUnreachablePair s.fsm s.rc = true ∨ (s.fsm = .keyexp ∧ ¬(4 ≤ s.ksidx.toNat ∧ s.ksidx.toNat < 44))

/-- From such a state a CTRL that is not stuck records the fault; `dispatch_records_no_fault` is the other half. -/
theorem dispatch_records_fault {s : State} (hn : s.ctrlFault = none) (h : s.undispatched) :
    exec (decodeDispatch s.fsm s.rc) s = .next (recordFault .unreachableDispatch s) := by
  rcases h with hpair | ⟨hf, hrange⟩
  · rw [(decodeDispatch_unreachable_iff _ _).mpr hpair, exec_ctrlUnreachable]
  · have hd : decodeDispatch s.fsm s.rc = .ctrlKeyexp s.rc := by rw [hf]; rfl
    rw [hd, exec, execCtrlKeyexp, unlessStuck_of_none _ _ hn, expandOrRecord, dif_neg fun h => hrange h.2]

/-- Every other turn leaves the record as it is. -/
theorem step_ctrlFault_eq {s t : State} (h : step s = .next t)
    (hs : ¬(s.ctrlNext ∧ s.ctrlFault = none ∧ s.undispatched)) : t.ctrlFault = s.ctrlFault := by
  obtain ⟨i, hi, e⟩ := step_makes s
  rw [e] at h
  by_cases hn : s.ctrlFault = none
  · cases hi with
    | ctrl hc =>
      have hd : ¬ s.undispatched := fun hu => hs ⟨hc, hn, hu⟩
      obtain ⟨hpair, hrange⟩ := not_or.mp hd
      rw [hn]
      exact dispatch_records_no_fault (s := { s with turns := s.turns.tail }) hn (Bool.eq_false_iff.mpr hpair)
        (fun hf => not_not.mp fun hr => hrange ⟨hf, hr⟩) h
    | reset => exact (exec_effect h).ctrlFault_eq rfl
    | bus w => exact (exec_effect h).ctrlFault_eq (decodeTransaction_not_controller w)
  · exact (exec_effect h).ctrlFault_of_stuck hn

/-- Settles O35: the pairs are those of `isUnreachablePair`, whose row records the fault; a stuck CTRL's rows do
nothing, and no effect takes the record away. -/
theorem unreachableDispatchPairsStopTheController : Obligations.UnreachableDispatchPairsStopTheController := by
  refine ⟨fun f rc s hpair => ⟨?_, exec_ctrlUnreachable f rc s⟩, fun i s hs hc => exec_of_stuck i hc s hs,
    fun s t hs h => step_ctrlFault_eq h fun hfault => hs hfault.2.1⟩
  have hunreachable : isUnreachablePair f rc = true := by
    rcases hpair with ⟨rfl, h⟩ | ⟨rfl, h⟩ | ⟨rfl, h⟩ | ⟨rfl, h⟩
    · simpa [isUnreachablePair] using h
    · simpa [isUnreachablePair] using h
    · simpa [isUnreachablePair] using h
    · exact Bool.eq_true_of_not_eq_false fun hf => h (by simpa [isUnreachablePair, BitVec.le_def] using hf)
  rw [decode_keyWord, (decodeDispatch_unreachable_iff f rc).mpr hunreachable]

/-- Settles O36: CTRL's turn records the fault where nothing is dispatched, and every other turn leaves the record. -/
theorem onlyUnreachableDispatchStopsTheController : Obligations.OnlyUnreachableDispatchStopsTheController := by
  intro s
  obtain ⟨t, h⟩ := step_next s
  refine ⟨t, h, ?_⟩
  by_cases hfault : s.ctrlNext ∧ s.ctrlFault = none ∧ s.undispatched
  · obtain ⟨hc, hn, hu⟩ := hfault
    rw [step_ctrl hc, dispatch_records_fault (s := { s with turns := s.turns.tail }) hn hu] at h
    cases h
    exact ⟨⟨fun _ => ⟨hc, hn, hu⟩, fun _ => by simp [hn]⟩, fun _ => rfl⟩
  · have hsame := step_ctrlFault_eq h hfault
    exact ⟨⟨fun hne => absurd hsame hne, fun hu => absurd hu hfault⟩, fun hne => absurd hsame hne⟩

end Sys2Proof.Machine
end

section
/-! The register writes (R182, R183, R184, R189), NOP (R186), and the instruction that a bus turn runs (R60, R180). -/

namespace Sys2Proof.Machine

/-! ### The operands of the writes -/

theorem inCntNext_of_ne {n : BitVec 8} (h : n ≠ 255#8) : inCntNext n = n + 1#8 := if_neg h

theorem inCntNext_saturated : inCntNext 255#8 = 255#8 := if_pos rfl

/-- RKIDX keeps a byte modulo 16 (R31, R73). -/
theorem rkidxOperand_toNat (v : Byte) : (rkidxOperand v).toNat = v.toNat % 16 := by
  simp [rkidxOperand]

/-! ### The addresses whose writes are ignored -/

/-- R189's addresses: ten one by one, and every one from 0x10 on. -/
theorem isWriteIgnoredAddr_iff (a : Byte) : isWriteIgnoredAddr a = true ↔
    a ∈ [0x01#8, 0x02#8, 0x04#8, 0x05#8, 0x06#8, 0x07#8, 0x0B#8, 0x0D#8, 0x0E#8, 0x0F#8] ∨ 16 ≤ a.toNat := by
  simp [isWriteIgnoredAddr, BitVec.le_def, or_assoc]

/-! ### The obligations -/

/-- Settles O5: the word decodes to `decodeTransaction`, which a bus turn runs on the turns that are left. -/
theorem busTurnRunsTheDecodedTransaction : Obligations.BusTurnRunsTheDecodedTransaction := by
  intro s w ts i hts hi
  rw [decode_transactionBytes] at hi
  cases hi
  exact step_bus hts

/-- Settles O12: the byte is stored below a count of 16, and the count goes up until it is 255. -/
theorem dinWriteAppendsAndCounts : Obligations.DinWriteAppendsAndCounts := by
  intro v s
  have hcount (h : s.inCnt.toNat < 255) : inCntNext s.inCnt = s.inCnt + 1#8 :=
    inCntNext_of_ne fun e => by simp [e] at h
  refine ⟨decode_writeWord _ _, fun h => ?_, fun h h' => ?_, fun h => ?_⟩
  · rw [exec, execWrDin, ibufAppend_of_lt _ _ _ h, hcount (by omega)]
  · rw [exec, execWrDin, ibufAppend_of_ge _ _ _ h, hcount h']
  · have hmax : s.inCnt = 255#8 := BitVec.eq_of_toNat_eq h
    rw [exec, execWrDin, ibufAppend_of_ge _ _ _ (by omega), hmax, inCntNext_saturated, ← hmax]

/-- Settles O13: the operand is the byte modulo 16, and RKIDX alone takes it. -/
theorem rkidxWriteKeepsTheLowBits : Obligations.RkidxWriteKeepsTheLowBits := fun v s =>
  ⟨decode_writeWord _ _, { s with rkidx := rkidxOperand v }, rfl, rfl, rkidxOperand_toNat v⟩

/-- Settles O14: each of the three words decodes to the write of its own port, which takes the whole byte. -/
theorem testPortWritesStoreTheByte : Obligations.TestPortWritesStoreTheByte := fun _ _ =>
  ⟨decode_writeWord _ _, rfl, decode_writeWord _ _, rfl, decode_writeWord _ _, rfl⟩

/-- Settles O15: the addresses are those of `isWriteIgnoredAddr`, whose writes decode to WR_IGNORED. -/
theorem writesToReadOnlyAddressesAreIgnored : Obligations.WritesToReadOnlyAddressesAreIgnored := by
  intro a d s ha
  rw [decode_writeWord, decodeWrite_ignored a d ((isWriteIgnoredAddr_iff a).mpr ha)]
  exact ⟨rfl, rfl⟩

/-- Settles O16: the closed word decodes to CMD_NOP, whose meaning is the state as it was. -/
theorem nopChangesNothing : Obligations.NopChangesNothing := ⟨rfl, fun _ => rfl⟩

end Sys2Proof.Machine
end

section
/-! The commands' error entries (R111, R150, R187, R216), and the order in which a CMD write is dispatched (R185). -/

namespace Sys2Proof.Machine

/-! ### The gate, for every command that passes it -/

/-- A gated command is its own effect behind the gate (R185). -/
theorem exec_gated {i : Instr} (hg : i.isGatedCommand = true) (s : State) :
    ∃ k : State → State, exec i s = .next (whenIdle k s) := by
  cases i with
  | cmdLoadKey | cmdEncrypt | cmdDecrypt | cmdIllegal => exact ⟨_, rfl⟩
  | _ => cases hg

/-- In ERROR a gated command is ignored (R222). -/
theorem exec_gated_of_error {i : Instr} (hg : i.isGatedCommand = true) {s : State} (hf : s.fsm = .error) :
    exec i s = .next s := by
  obtain ⟨k, hk⟩ := exec_gated hg s
  rw [hk, whenIdle_of_error _ _ hf]

/-- While an operation runs a gated command raises CMD_WHILE_BUSY (R215). -/
theorem exec_gated_of_busy {i : Instr} (hg : i.isGatedCommand = true) {s : State} (hf : busy s.fsm = true) :
    exec i s = .next (raise .cmdWhileBusy s) := by
  obtain ⟨k, hk⟩ := exec_gated hg s
  rw [hk, whenIdle_of_busy _ _ hf]

/-- Every byte but NOP's and SOFT_RESET's is a gated command (R74, R75, R218). -/
theorem decodeCommand_gated {c : Byte} (h0 : c ≠ 0x00#8) (hF : c ≠ 0x0F#8) :
    (decodeCommand c).isGatedCommand = true := by
  simp only [decodeCommand, h0, hF, ↓reduceIte]
  split_ifs <;> rfl

/-! ### In IDLE, the errors a command raises -/

section Idle

variable {s : State} (hf : s.fsm = .idle)
include hf

theorem exec_cmdLoadKey_of_wrong_count (hn : s.inCnt ≠ 16#8) : exec .cmdLoadKey s = .next (raise .keyLength s) := by
  rw [exec, execCmdLoadKey, whenIdle_of_idle _ _ hf, acceptLoadKey, if_neg hn]

theorem exec_cmdEncrypt_of_wrong_count (hn : s.inCnt ≠ 16#8) :
    exec .cmdEncrypt s = .next (raise .blockLength s) := by
  rw [exec, execCmdEncrypt, whenIdle_of_idle _ _ hf, acceptEncrypt, if_neg hn]

theorem exec_cmdEncrypt_of_no_key (hn : s.inCnt = 16#8) (hk : s.keyValid = false) :
    exec .cmdEncrypt s = .next (raise .noKey s) := by
  rw [exec, execCmdEncrypt, whenIdle_of_idle _ _ hf, acceptEncrypt, if_pos hn, if_neg (by simp [hk])]

theorem exec_cmdDecrypt_of_idle : exec .cmdDecrypt s = .next (raise .unsupported s) := by
  rw [exec, execCmdDecrypt, whenIdle_of_idle _ _ hf]

theorem exec_cmdIllegal_of_idle (c : Byte) : exec (.cmdIllegal c) s = .next (raise .illegalCmd s) := by
  rw [exec, execCmdIllegal, whenIdle_of_idle _ _ hf]

end Idle

/-! ### The order -/

/-- Settles O17: NOP and SOFT_RESET act in every state; every other byte is a gated command, which ERROR ignores,
which a running operation answers with CMD_WHILE_BUSY, and which in IDLE has the effect of its own byte. -/
theorem commandWriteFollowsTheDispatchOrder : Obligations.CommandWriteFollowsTheDispatchOrder := by
  intro v s i hi
  rw [decode_writeWord] at hi
  obtain rfl : decodeCommand v = i := Except.ok.inj hi
  by_cases h0 : v = 0x00#8
  · subst h0; exact ⟨s, rfl, by simp⟩
  by_cases hF : v = 0x0F#8
  · subst hF
    have hreset : exec .cmdSoftReset s = .next (applyReset s) := rfl
    exact ⟨_, hreset, by simp [hreset]⟩
  have hg := decodeCommand_gated h0 hF
  simp only [if_neg h0, if_neg hF]
  by_cases herror : s.fsm = .error
  · exact ⟨s, exec_gated_of_error hg herror, by simp [herror]⟩
  by_cases hf : s.fsm = .idle
  · simp only [if_neg herror, if_neg (not_not_intro hf)]
    by_cases h1 : v = 0x01#8
    · subst h1
      by_cases hn : s.inCnt = 16#8
      · exact ⟨_, exec_cmdLoadKey_of_accepted hf hn, by simp [hn]⟩
      · exact ⟨_, exec_cmdLoadKey_of_wrong_count hf hn, by simp [hn, raise]⟩
    by_cases h2 : v = 0x02#8
    · subst h2
      by_cases hn : s.inCnt = 16#8
      · cases hk : s.keyValid with
        | true => exact ⟨_, exec_cmdEncrypt_of_accepted hf hn hk, by simp [hn, hk]⟩
        | false => exact ⟨_, exec_cmdEncrypt_of_no_key hf hn hk, by simp [hn, hk, raise]⟩
      · exact ⟨_, exec_cmdEncrypt_of_wrong_count hf hn, by simp [hn, raise]⟩
    by_cases h3 : v = 0x03#8
    · subst h3
      exact ⟨_, exec_cmdDecrypt_of_idle hf, by simp [raise]⟩
    · have hillegal : decodeCommand v = .cmdIllegal v :=
        decodeCommand_illegal v (by simp [isCommandByte, h0, h1, h2, h3, hF])
      exact ⟨_, hillegal ▸ exec_cmdIllegal_of_idle hf v, by simp [h1, h2, h3, raise]⟩
  · exact ⟨_, exec_gated_of_busy hg ((busy_eq_true_iff _).mpr ⟨hf, herror⟩), by simp [herror, hf, raise]⟩

end Sys2Proof.Machine
end

section
/-! Error entry and the ERROR state (60_exceptions.md): what raises an error and what that changes (R210 to R220), and
that only a reset leads out of ERROR (R222, R223). -/

namespace Sys2Proof.Machine

/-! ### Into ERROR -/

/-- CTRL has no step in a state of ERROR (R159, R215). -/
theorem exec_dispatch_of_error {s : State} (hf : s.fsm = .error) : exec (decodeDispatch s.fsm s.rc) s = .next s :=
  exec_dispatch_of_quiescent ((busy_eq_false_iff _).mpr (.inr hf)) s.rc s

/-- Of the effects only error entry leads into ERROR (R219, R220). -/
theorem Effect.error_entered {i : Instr} {s t : State} (h : Effect i s t) (hs : s.fsm ≠ .error) (ht : t.fsm = .error) :
    i.isGatedCommand = true ∧ ∃ e : ErrCode, e ≠ .none ∧ t = raise e s := by
  cases h with
  | raised _ _ e hg _ he => exact ⟨hg, e, he, rfl⟩
  | still | faulted => exact absurd ht hs
  | port _ _ _ _ _ _ hp => exact absurd ((port_leaves_datapath hp).1.symm.trans ht) hs
  | expand _ _ _ hf hrange =>
    by_cases h43 : s.ksidx = 43#6
    · rw [expandStep_last s hrange h43] at ht; cases ht
    · rw [expandStep_inner s hrange h43] at ht; exact absurd ht hs
  | reset | loadKey | encrypt | whiten | fullRound | finalRound | serialize => cases ht

/-- ERRCODE is written by error entry and by a reset (R25, R210). -/
theorem Effect.errcode_changed {i : Instr} {s t : State} (h : Effect i s t) (hne : t.errcode ≠ s.errcode) :
    i.isGatedCommand = true ∨ i = .cmdSoftReset := by
  cases h with
  | raised _ _ _ hg => exact .inl hg
  | reset => exact .inr rfl
  | port _ _ _ _ _ _ hp => exact absurd (by rw [hp]) hne
  | _ => exact absurd rfl hne

/-! ### In ERROR -/

/-- From ERROR an instruction that is no SOFT_RESET changes at most what a register transaction does, and CTRL's record
of a fault (R222). -/
theorem Effect.frame_of_error {i : Instr} {s t : State} (h : Effect i s t) (hs : s.fsm = .error)
    (hr : i ≠ .cmdSoftReset) : t = { s with
      ibuf := t.ibuf, inCnt := t.inCnt, rkidx := t.rkidx, gfa := t.gfa, gfb := t.gfb, sbin := t.sbin
      reads := t.reads, draws := t.draws, ctrlFault := t.ctrlFault } := by
  cases h with
  | still | faulted => rfl
  | port _ _ _ _ _ _ hp => rw [hp]
  | reset => exact absurd rfl hr
  | raised _ _ _ _ hf => exact absurd hs hf
  | loadKey _ hf | encrypt _ hf | expand _ _ _ hf | whiten _ _ hf | finalRound _ _ hf | serialize _ _ hf =>
    rw [hf] at hs; cases hs
  | fullRound _ _ _ _ n _ _ _ hf => split at hf <;> (rw [hf] at hs; cases hs)

/-! ### Out of ERROR -/

/-- On a reset turn, the input's or SOFT_RESET's, the step is the reset effect (R188, R190). -/
theorem step_of_resetNext {s : State} (h : s.resetNext) :
    step s = .next (applyReset { s with turns := s.turns.tail }) := by
  obtain ⟨ts, h | h⟩ := h
  · rw [step_reset h, h]; rfl
  · rw [step_bus h, h]; rfl

/-! ### The obligations -/

/-- Settles O24: each such byte is a gated command, which raises CMD_WHILE_BUSY, and in ERROR CTRL has no step. -/
theorem commandWhileBusyAbandonsTheOperation : Obligations.CommandWhileBusyAbandonsTheOperation := by
  intro v s i h0 hF hbusy hi
  rw [decode_writeWord] at hi
  obtain rfl : decodeCommand v = i := Except.ok.inj hi
  have hraise := exec_gated_of_busy (decodeCommand_gated h0 hF) hbusy
  refine ⟨hraise, fun t ht => ?_⟩
  rw [hraise] at ht
  cases ht
  exact exec_dispatch_of_error rfl

/-- Settles O25: only error entry leads into ERROR, where CTRL has no step. -/
theorem errorEntryChangesOnlyFsmAndErrcode : Obligations.ErrorEntryChangesOnlyFsmAndErrcode := by
  intro i s t h hs ht
  obtain ⟨hg, hraise⟩ := (exec_effect h).error_entered hs ht
  exact ⟨hg, hraise, exec_dispatch_of_error ht⟩

/-- Settles O26: of the effects only error entry and the reset write ERRCODE. -/
theorem onlyCommandsWriteErrcode : Obligations.OnlyCommandsWriteErrcode := fun _ _ _ h hne =>
  (exec_effect h).errcode_changed hne

/-- Settles O27: the gate ignores the commands, and the register writes ask no state. -/
theorem commandsAreIgnoredInError : Obligations.CommandsAreIgnoredInError := by
  refine fun s hf => ⟨?_, fun v => ⟨rfl, rfl, rfl, ⟨_, rfl, rfl⟩, ⟨_, rfl, inCntNext_toNat s.inCnt⟩⟩⟩
  rintro i (hg | rfl)
  · exact exec_gated_of_error hg hf
  · rfl

/-- Settles O28: a reset turn has the reset effect, and on any other the instruction is no SOFT_RESET, so its effect
keeps the frame of ERROR. -/
theorem onlyResetLeavesError : Obligations.OnlyResetLeavesError := by
  intro s t hf h
  refine ⟨fun hreset => ?_, fun hno => ?_⟩
  · rw [step_of_resetNext hreset] at h
    cases h
    exact ⟨rfl, rfl, rfl⟩
  · obtain ⟨i, hi, he⟩ := step_effect h
    rw [he.frame_of_error hf fun hsoft => hno (hi.resetNext hsoft)]
    exact ⟨hf, rfl, rfl, rfl, rfl, rfl, rfl, rfl, rfl⟩

/-- Settles O19: KEY_LENGTH is raised, and `raise` writes ERRCODE and fsm alone. -/
theorem loadKeyRaisesKeyLength : Obligations.LoadKeyRaisesKeyLength := fun _ => exec_cmdLoadKey_of_wrong_count

/-- Settles O21: the count is checked before the key. -/
theorem encryptRaisesBlockLengthOrNoKey : Obligations.EncryptRaisesBlockLengthOrNoKey := fun _ hf =>
  ⟨exec_cmdEncrypt_of_wrong_count hf, exec_cmdEncrypt_of_no_key hf⟩

/-- Settles O22: DECRYPT's effect behind the gate is the error alone. -/
theorem decryptRaisesUnsupported : Obligations.DecryptRaisesUnsupported := fun _ => exec_cmdDecrypt_of_idle

/-- Settles O23: a byte outside the five decodes to CMD_ILLEGAL, whose effect behind the gate is the error alone. -/
theorem reservedCommandRaisesIllegalCmd : Obligations.ReservedCommandRaisesIllegalCmd := by
  intro c s hc hf
  have hcommand : isCommandByte c = false := by simpa [isCommandByte, and_assoc] using hc
  have hdecode : decodeWrite 0x00#8 c = decodeCommand c := rfl
  rw [decode_writeWord, hdecode, decodeCommand_illegal c hcommand]
  exact ⟨rfl, exec_cmdIllegal_of_idle hf c⟩

end Sys2Proof.Machine
end

section
/-! Leaving an operation to CTRL alone: how many of its steps are left, that each of them counts down by one, and so when
a step is still and when the run has ended (R114, R159, R161, R256, R258). -/

namespace Sys2Proof.Machine

/-! ### The controller's steps that are left -/

/-- How many steps CTRL has yet to make: one a schedule word (R114), or one a key mixing and the serialize step
(R161). -/
def State.stepsLeft (s : State) : Nat :=
  match s.fsm with
  | .idle | .error => 0
  | .keyexp => 44 - s.ksidx.toNat
  | .loaded | .whitened | .round | .final => 12 - s.rc.toNat

theorem stepsLeft_of_quiescent {s : State} (hf : busy s.fsm = false) : s.stepsLeft = 0 := by
  rcases (busy_eq_false_iff _).mp hf with hf | hf <;> simp only [State.stepsLeft, hf]

/-- No state with the invariant is further from the end than LOAD_KEY's acceptance (R114). -/
theorem State.Inv.stepsLeft_le {s : State} (h : s.Inv) : s.stepsLeft ≤ 40 := by
  unfold State.stepsLeft
  split
  case h_3 hf => have := (h.keyexp hf).2; omega
  all_goals omega

/-- The invariant shuts out the states from which no step is dispatched (R160, log 6). -/
theorem State.Inv.dispatched {s : State} (h : s.Inv) : ¬ s.undispatched := by
  rintro (hpair | ⟨hf, hrange⟩)
  · simp [h.reachablePair] at hpair
  · exact hrange (h.keyexp hf).2

/-- An iteration of the expansion leaves one word fewer (R113, R114). -/
theorem stepsLeft_expandStep {s : State} (hf : s.fsm = .keyexp) (h : 4 ≤ s.ksidx.toNat ∧ s.ksidx.toNat < 44) :
    (expandStep s h).stepsLeft + 1 = s.stepsLeft := by
  by_cases h43 : s.ksidx = 43#6
  · simp [expandStep_last s h h43, State.stepsLeft, hf, h43]
  · have hsucc : (s.ksidx + 1#6).toNat = s.ksidx.toNat + 1 := by bv_omega
    simp only [expandStep_inner s h h43, State.stepsLeft, hf, hsucc]
    omega

/-- Where a busy CTRL that is not stuck is dispatched, its step is one of those left (R77, R114, R161). -/
theorem stepsLeft_of_dispatch {s t : State} (hn : s.ctrlFault = none) (hd : ¬ s.undispatched)
    (hb : busy s.fsm = true) (h : exec (decodeDispatch s.fsm s.rc) s = .next t) : t.stepsLeft + 1 = s.stepsLeft := by
  obtain ⟨hpair, hrange⟩ := not_or.mp hd
  rw [Bool.not_eq_true] at hpair
  cases hf : s.fsm with
  | idle | error => rw [hf] at hb; cases hb
  | keyexp =>
    have hr : 4 ≤ s.ksidx.toNat ∧ s.ksidx.toNat < 44 := not_not.mp fun hr => hrange ⟨hf, hr⟩
    have hrow : decodeDispatch s.fsm s.rc = .ctrlKeyexp s.rc := by rw [hf]; rfl
    rw [hrow, exec_ctrlKeyexp_of_keyexp s.rc hn hf hr] at h
    cases h
    exact stepsLeft_expandStep hf hr
  | loaded =>
    have hr : s.rc = 0#4 := by simpa [hf, isUnreachablePair] using hpair
    have hrow : decodeDispatch s.fsm s.rc = .ctrlWhiten := by rw [hf, hr]; rfl
    rw [hrow, exec_ctrlWhiten_of_loaded hn hf hr] at h
    cases h
    simp [State.stepsLeft, hf, hr]
  | whitened =>
    have hr : s.rc = 1#4 := by simpa [hf, isUnreachablePair] using hpair
    obtain ⟨hrow, hexec⟩ := dispatch_fullRound hn (by decide) (.inl ⟨rfl, hf, hr, rfl⟩)
    rw [hrow, hexec] at h
    cases h
    simp [State.stepsLeft, hf, hr]
  | round =>
    have hr : 2 ≤ s.rc.toNat ∧ s.rc.toNat ≤ 10 := by simpa [hf, isUnreachablePair, BitVec.le_def] using hpair
    by_cases h9 : s.rc.toNat ≤ 9
    · obtain ⟨hrow, hexec⟩ := dispatch_fullRound hn h9 (.inr ⟨rfl, hf, hr.1, rfl⟩)
      rw [hrow, hexec] at h
      cases h
      have hsucc : (s.rc + 1#4).toNat = s.rc.toNat + 1 := by bv_omega
      simp only [State.stepsLeft, hf, hsucc]
      omega
    · have hr10 : s.rc = 10#4 := by bv_omega
      have hrow : decodeDispatch s.fsm s.rc = .ctrlFinalround := by rw [hf, hr10]; rfl
      rw [hrow, exec_ctrlFinalround_of_round hn hf hr10] at h
      cases h
      simp [State.stepsLeft, hf, hr10]
  | final =>
    have hr : s.rc = 11#4 := by simpa [hf, isUnreachablePair] using hpair
    have hrow : decodeDispatch s.fsm s.rc = .ctrlSerialize := by rw [hf, hr]; rfl
    rw [hrow, exec_ctrlSerialize_of_final hn hf hr] at h
    cases h
    simp [State.stepsLeft, hf, hr]

/-! ### With no turn listed -/

/-- With no turn listed a step is CTRL's and takes nothing off the list (log 1). -/
theorem step_of_no_turns {s : State} (h : s.turns = []) : step s = exec (decodeDispatch s.fsm s.rc) s :=
  (controllerTurnRunsTheDispatchedStep s _ (decode_keyWord _ _)).2 h

/-- Left alone from a state with the invariant, a busy CTRL makes one of the steps that are left, and raises no error
(R164, R219). -/
theorem State.Inv.step_of_busy {s t : State} (hs : s.Inv) (hts : s.turns = []) (hb : busy s.fsm = true)
    (h : step s = .next t) : t.stepsLeft + 1 = s.stepsLeft ∧ t.fsm ≠ .error := by
  rw [step_of_no_turns hts] at h
  refine ⟨stepsLeft_of_dispatch hs.noFault hs.dispatched hb h, fun herror => ?_⟩
  have hgated := ((exec_effect h).error_entered ((busy_eq_true_iff _).mp hb).2 herror).1
  simp [not_gated_of_controllerStep (decodeDispatch_controller s.fsm s.rc)] at hgated

/-- Left alone from a state with the invariant, CTRL makes exactly the steps that are left, and the run has then ended,
in ERROR only if it began there. -/
theorem State.Inv.run_stepsLeft {s : State} (hs : s.Inv) (hts : s.turns = []) :
    ∃ t, Host.Core.run Sys2Proof.core s.stepsLeft s = .next t ∧ t.ended ∧ (s.fsm ≠ .error → t.fsm ≠ .error) := by
  induction hk : s.stepsLeft generalizing s with
  | zero =>
    obtain ⟨u, hu⟩ := step_next s
    have hq : busy s.fsm = false := Bool.eq_false_iff.mpr fun hb => by
      have := (hs.step_of_busy hts hb hu).1
      omega
    exact ⟨s, rfl, ⟨hts, hq⟩, id⟩
  | succ k ih =>
    have hb : busy s.fsm = true := Bool.eq_true_of_not_eq_false fun hq => by simp [stepsLeft_of_quiescent hq] at hk
    obtain ⟨u, hu⟩ := step_next s
    obtain ⟨hleft, hnoError⟩ := hs.step_of_busy hts hb hu
    have huts : u.turns = [] := by rw [step_turns hu, hts]; rfl
    obtain ⟨t, hrun, hend, ht⟩ := ih (everyStepKeepsTheInvariant s u hs hu) huts (by omega)
    exact ⟨t, run_succ_eq_next.mpr ⟨u, hu, hrun⟩, hend, fun _ => ht hnoError⟩

/-- A busy CTRL that is not stuck changes the state: where it is dispatched a step fewer is left, and elsewhere it records
the fault. -/
theorem dispatch_ne_still {s : State} (hn : s.ctrlFault = none) (hb : busy s.fsm = true) :
    exec (decodeDispatch s.fsm s.rc) s ≠ .next s := by
  intro h
  by_cases hu : s.undispatched
  · rw [dispatch_records_fault hn hu] at h
    have hfault := congrArg State.ctrlFault (Host.Outcome.next.inj h)
    simp [hn] at hfault
  · have := stepsLeft_of_dispatch hn hu hb h
    omega

/-- A step that changes nothing takes no turn off the list: none is listed. -/
theorem turns_of_still {s : State} (h : step s = .next s) : s.turns = [] := by
  have htail := step_turns h
  cases hts : s.turns with
  | nil => rfl
  | cons x ts => simp [hts] at htail

/-- A step changes nothing exactly when no turn is listed and CTRL is quiescent or stuck (R159, U7). -/
theorem step_still_iff (s : State) :
    step s = .next s ↔ s.turns = [] ∧ (busy s.fsm = false ∨ s.ctrlFault ≠ none) := by
  constructor
  · intro h
    have hts := turns_of_still h
    rw [step_of_no_turns hts] at h
    refine ⟨hts, or_iff_not_imp_right.mpr fun hstuck => Bool.eq_false_iff.mpr fun hb => ?_⟩
    exact dispatch_ne_still (not_not.mp hstuck) hb h
  · rintro ⟨hts, hbusy | hstuck⟩
    · rw [step_of_no_turns hts, exec_dispatch_of_quiescent hbusy]
    · rw [step_of_no_turns hts, exec_of_stuck _ (decodeDispatch_controller _ _) _ hstuck]

/-! ### The obligations -/

/-- Settles O56: CTRL makes exactly the steps that are left, which are at most 40. -/
theorem controllerAloneFinishesWithinFortySteps : Obligations.ControllerAloneFinishesWithinFortySteps := by
  intro s hs hts
  obtain ⟨t, hrun, hend, hte⟩ := hs.run_stepsLeft hts
  exact ⟨s.stepsLeft, t, hs.stepsLeft_le, hrun, hend, fun hf => ⟨hend, by simpa [err] using hte hf⟩⟩

/-- Settles O55: a busy CTRL that is not stuck always changes the state, and with no fault recorded being still is having
ended. -/
theorem stepIsStillExactlyWhenTheRunHasEnded : Obligations.StepIsStillExactlyWhenTheRunHasEnded := fun s =>
  ⟨step_still_iff s, fun hn => by simp [step_still_iff, State.ended, hn]⟩

end Sys2Proof.Machine
end

section
/-! The reset effect (R188, R190, R240): SOFT_RESET's and the reset input's, register by register. -/

namespace Sys2Proof.Machine

/-- Settles O7: both are `applyReset`, whose fields are known one by one, and in IDLE CTRL has no step. -/
theorem resetInputAndSoftResetSetEveryRegister : Obligations.ResetInputAndSoftResetSetEveryRegister := by
  intro s
  refine ⟨applyReset s, rfl, fun ts hts => step_reset hts, ?_⟩
  simp [exec_dispatch_of_quiescent (f := .idle) rfl]

end Sys2Proof.Machine
end
